-- ==== Sys2Proof/Word.lean ====
section
/-! DEFINITION. The words of lfesp/chip-8 CORE: bytes, 16-bit words, register indexes, key vectors and the framebuffer
grid (spec/00_scope.md R6, spec/10_state.md R20 to R33). -/

namespace Sys2Proof

/-- A byte: the width of a general register, of a timer and of a memory cell (R6, R20, R29, R33). -/
abbrev Byte := BitVec 8

/-- A 16-bit word: an opcode, the program counter, the index register, a call-stack entry (R6, R24, R26, R28, R80). -/
abbrev Word := BitVec 16

/-- The 12-bit address field `NNN` of an opcode (R81). -/
abbrev Addr12 := BitVec 12

/-- The 4-bit immediate field `N` of an opcode, a row count 0 to 15 (R81, R82). -/
abbrev Nibble := BitVec 4

/-- The index of a general register, 0x0 to 0xF (R20). -/
abbrev Reg := Fin 16

/-- The flag register, register 0xF (R22). -/
abbrev regF : Reg := 15

/-- Sixteen key levels, true where the key is pressed (R30). -/
abbrev Keys := Vector Bool 16

/-- The 64 by 32 grid of one-bit pixels, row-major, true where the pixel is on (R31). -/
abbrev Framebuffer := Vector (Vector Bool 64) 32

/-- MEM_SIZE: addresses 0x000 to 0xFFF (R6, R33). -/
abbrev memSize : Nat := 0x1000

/-- GLYPH_BASE (R6). -/
abbrev glyphBase : Nat := 0x050

/-- LOAD_BASE (R6). -/
abbrev loadBase : Nat := 0x200

/-- LOAD_CAP, 4096 - 0x200 (R6). -/
abbrev loadCap : Nat := 3584

end Sys2Proof
end

