-- ==== Sys2Proof/Syntax.lean ====
section
/-! DEFINITION. The 34 instructions of spec/30_encoding.md R84, one constructor per row of spec/opcode_table.json, in the
table's order. Fields are typed at the width R81 gives them, so every term of `Instr` is an instruction of the CORE. -/

namespace Sys2Proof

/-- The instructions (R84). Register fields `x`, `y` are register indexes, `kk` the immediate byte, `nnn` the address field,
`n` the row count (R81, R82). -/
inductive Instr where
  /-- 00E0 CLS, clear-screen (R120). -/
  | cls
  /-- 00EE RET, return (R130). -/
  | ret
  /-- 1NNN JP NNN, jump (R131). -/
  | jp (nnn : Addr12)
  /-- 2NNN CALL NNN, call (R132). -/
  | call (nnn : Addr12)
  /-- 3XKK SE VX, KK (R133). -/
  | seImm (x : Reg) (kk : Byte)
  /-- 4XKK SNE VX, KK (R134). -/
  | sneImm (x : Reg) (kk : Byte)
  /-- 5XY0 SE VX, VY (R135). -/
  | seReg (x y : Reg)
  /-- 6XKK LD VX, KK (R150). -/
  | ldImm (x : Reg) (kk : Byte)
  /-- 7XKK ADD VX, KK (R151). -/
  | addImm (x : Reg) (kk : Byte)
  /-- 8XY0 LD VX, VY (R152). -/
  | ldReg (x y : Reg)
  /-- 8XY1 OR VX, VY (R153). -/
  | orReg (x y : Reg)
  /-- 8XY2 AND VX, VY (R154). -/
  | andReg (x y : Reg)
  /-- 8XY3 XOR VX, VY (R155). -/
  | xorReg (x y : Reg)
  /-- 8XY4 ADD VX, VY (R156). -/
  | addReg (x y : Reg)
  /-- 8XY5 SUB VX, VY (R157). -/
  | subReg (x y : Reg)
  /-- 8XY6 SHR VX (R158). The field `y` is decoded and not used (R87). -/
  | shr (x y : Reg)
  /-- 8XY7 SUBN VX, VY (R159). -/
  | subnReg (x y : Reg)
  /-- 8XYE SHL VX (R160). The field `y` is decoded and not used (R87). -/
  | shl (x y : Reg)
  /-- 9XY0 SNE VX, VY (R136). -/
  | sneReg (x y : Reg)
  /-- ANNN LD I, NNN (R190). -/
  | ldI (nnn : Addr12)
  /-- BNNN JP V0, NNN (R137). -/
  | jpV0 (nnn : Addr12)
  /-- CXKK RND VX, KK (R161). -/
  | rnd (x : Reg) (kk : Byte)
  /-- DXYN DRW VX, VY, N (R121). -/
  | drw (x y : Reg) (n : Nibble)
  /-- EX9E SKP VX (R180). -/
  | skp (x : Reg)
  /-- EXA1 SKNP VX (R181). -/
  | sknp (x : Reg)
  /-- FX07 LD VX, DT (R182). -/
  | ldVxDt (x : Reg)
  /-- FX0A LD VX, K (R185). -/
  | ldVxK (x : Reg)
  /-- FX15 LD DT, VX (R183). -/
  | ldDtVx (x : Reg)
  /-- FX18 LD ST, VX (R184). -/
  | ldStVx (x : Reg)
  /-- FX1E ADD I, VX (R191). -/
  | addI (x : Reg)
  /-- FX29 LD F, VX (R192). -/
  | ldF (x : Reg)
  /-- FX33 LD B, VX (R193). -/
  | ldB (x : Reg)
  /-- FX55 LD [I], VX (R194). -/
  | ldMemVx (x : Reg)
  /-- FX65 LD VX, [I] (R195). -/
  | ldVxMem (x : Reg)
  deriving DecidableEq, Repr

end Sys2Proof
end

