-- ==== Sys2Proof/WellFormed.lean ====
section
/-! DEFINITION. The opcode map of spec/30_encoding.md R84 as rows of a mask and a match, and which opcodes are well formed.
An `Instr` is well formed by its types (each field has the width R81 gives it), so the one check left is on opcodes: an
opcode is an instruction when some row selects it, and unrecognised otherwise (R90). -/

namespace Sys2Proof

/-- One row of R84: an opcode `op` selects it when `op & mask = match`. -/
structure OpcodeRow where
  mnemonic : String
  matchBits : Word
  mask : Word
  deriving DecidableEq, Repr

/-- "An opcode `op` selects a row when `op & mask = match`" (R84). -/
def OpcodeRow.selects (row : OpcodeRow) (op : Word) : Bool :=
  op &&& row.mask == row.matchBits

/-- The 34 rows of R84, in the table's order. -/
def opcodeMap : List OpcodeRow :=
  [⟨"CLS", 0x00E0, 0xFFFF⟩, ⟨"RET", 0x00EE, 0xFFFF⟩, ⟨"JP", 0x1000, 0xF000⟩, ⟨"CALL", 0x2000, 0xF000⟩,
   ⟨"SE", 0x3000, 0xF000⟩, ⟨"SNE", 0x4000, 0xF000⟩, ⟨"SE", 0x5000, 0xF00F⟩, ⟨"LD", 0x6000, 0xF000⟩,
   ⟨"ADD", 0x7000, 0xF000⟩] ++
  [⟨"LD", 0x8000, 0xF00F⟩, ⟨"OR", 0x8001, 0xF00F⟩, ⟨"AND", 0x8002, 0xF00F⟩, ⟨"XOR", 0x8003, 0xF00F⟩,
   ⟨"ADD", 0x8004, 0xF00F⟩, ⟨"SUB", 0x8005, 0xF00F⟩, ⟨"SHR", 0x8006, 0xF00F⟩, ⟨"SUBN", 0x8007, 0xF00F⟩,
   ⟨"SHL", 0x800E, 0xF00F⟩] ++
  [⟨"SNE", 0x9000, 0xF00F⟩, ⟨"LD", 0xA000, 0xF000⟩, ⟨"JP", 0xB000, 0xF000⟩, ⟨"RND", 0xC000, 0xF000⟩,
   ⟨"DRW", 0xD000, 0xF000⟩, ⟨"SKP", 0xE09E, 0xF0FF⟩, ⟨"SKNP", 0xE0A1, 0xF0FF⟩] ++
  [⟨"LD", 0xF007, 0xF0FF⟩, ⟨"LD", 0xF00A, 0xF0FF⟩, ⟨"LD", 0xF015, 0xF0FF⟩, ⟨"LD", 0xF018, 0xF0FF⟩,
   ⟨"ADD", 0xF01E, 0xF0FF⟩, ⟨"LD", 0xF029, 0xF0FF⟩, ⟨"LD", 0xF033, 0xF0FF⟩, ⟨"LD", 0xF055, 0xF0FF⟩,
   ⟨"LD", 0xF065, 0xF0FF⟩]

/-- The opcode is one of the 34 instructions: some row of R84 selects it. The opcodes that fail this are those of R90. -/
def wellFormedOpcode (op : Word) : Bool :=
  opcodeMap.any fun row => row.selects op

end Sys2Proof
end

