-- ==== Sys2Proof/Decode.lean ====
section
/-! DEFINITION. Decoding (spec/30_encoding.md R80 to R91), total on all 65536 opcodes, and after it the encoder and the
assembler text of an instruction (R92), written from the same rules. -/

namespace Sys2Proof

/-! ## The fields of an opcode (R81) -/

/-- nibble0, `op[15:12]`, the family selector. -/
def opFamily (op : Word) : BitVec 4 := op.extractLsb' 12 4

/-- `X`, `op[11:8]`, a register index. -/
def opX (op : Word) : Reg := ⟨(op.extractLsb' 8 4).toNat, (op.extractLsb' 8 4).isLt⟩

/-- `Y`, `op[7:4]`, a register index. -/
def opY (op : Word) : Reg := ⟨(op.extractLsb' 4 4).toNat, (op.extractLsb' 4 4).isLt⟩

/-- `N`, `op[3:0]`, the immediate nibble. -/
def opN (op : Word) : Nibble := op.extractLsb' 0 4

/-- `NNN`, `op[11:0]`, the address. -/
def opNNN (op : Word) : Addr12 := op.extractLsb' 0 12

/-- `KK`, `op[7:0]`, the immediate byte. -/
def opKK (op : Word) : Byte := op.extractLsb' 0 8

/-! ## Decoding -/

/-- Why an opcode is no instruction: the row of R90 it falls in. -/
inductive Unrecognized where
  /-- Family 0x0 and neither 00E0 nor 00EE (R85). -/
  | family0
  /-- Family 0x5 with nibble3 not 0 (R86). -/
  | family5
  /-- Family 0x8 with nibble3 one of 8, 9, A, B, C, D, F (R87). -/
  | family8
  /-- Family 0x9 with nibble3 not 0 (R86). -/
  | family9
  /-- Family 0xE with a low byte that is neither 9E nor A1 (R88). -/
  | familyE
  /-- Family 0xF with a low byte outside the nine of R89. -/
  | familyF
  /-- Fewer than two bytes were given: no opcode at all (R80). -/
  | truncated
  deriving DecidableEq, Repr

/-- What decoding answers: an instruction, or the name of the reason there is none. -/
inductive Decoded where
  | instr (i : Instr)
  | unrecognized (why : Unrecognized)
  deriving DecidableEq, Repr

/-- Family 0x0, matched on the whole opcode (R85). -/
def decodeFamily0 (op : Word) : Decoded :=
  if op = 0x00E0 then .instr .cls
  else if op = 0x00EE then .instr .ret
  else .unrecognized .family0

/-- Family 0x8, selected by nibble3 (R87). -/
def decodeFamily8 (op : Word) : Decoded :=
  let x := opX op
  let y := opY op
  match (opN op).toNat with
  | 0x0 => .instr (.ldReg x y)
  | 0x1 => .instr (.orReg x y)
  | 0x2 => .instr (.andReg x y)
  | 0x3 => .instr (.xorReg x y)
  | 0x4 => .instr (.addReg x y)
  | 0x5 => .instr (.subReg x y)
  | 0x6 => .instr (.shr x y)
  | 0x7 => .instr (.subnReg x y)
  | 0xE => .instr (.shl x y)
  | _ => .unrecognized .family8

/-- Family 0xE, selected by the low byte (R88). -/
def decodeFamilyE (op : Word) : Decoded :=
  if opKK op = 0x9E then .instr (.skp (opX op))
  else if opKK op = 0xA1 then .instr (.sknp (opX op))
  else .unrecognized .familyE

/-- Family 0xF, selected by the low byte (R89). -/
def decodeFamilyF (op : Word) : Decoded :=
  let x := opX op
  let kk := opKK op
  if kk = 0x07 then .instr (.ldVxDt x)
  else if kk = 0x0A then .instr (.ldVxK x)
  else if kk = 0x15 then .instr (.ldDtVx x)
  else if kk = 0x18 then .instr (.ldStVx x)
  else if kk = 0x1E then .instr (.addI x)
  else if kk = 0x29 then .instr (.ldF x)
  else if kk = 0x33 then .instr (.ldB x)
  else if kk = 0x55 then .instr (.ldMemVx x)
  else if kk = 0x65 then .instr (.ldVxMem x)
  else .unrecognized .familyF

/-- Dispatch (R83): the family is nibble0; families 0x5 and 0x9 require nibble3 = 0 (R86). The last arm is family 0xF, the
one value of nibble0 the others leave. -/
def decodeOpcode (op : Word) : Decoded :=
  let x := opX op
  let y := opY op
  match (opFamily op).toNat with
  | 0x0 => decodeFamily0 op
  | 0x1 => .instr (.jp (opNNN op))
  | 0x2 => .instr (.call (opNNN op))
  | 0x3 => .instr (.seImm x (opKK op))
  | 0x4 => .instr (.sneImm x (opKK op))
  | 0x5 => if opN op = 0 then .instr (.seReg x y) else .unrecognized .family5
  | 0x6 => .instr (.ldImm x (opKK op))
  | 0x7 => .instr (.addImm x (opKK op))
  | 0x8 => decodeFamily8 op
  | 0x9 => if opN op = 0 then .instr (.sneReg x y) else .unrecognized .family9
  | 0xA => .instr (.ldI (opNNN op))
  | 0xB => .instr (.jpV0 (opNNN op))
  | 0xC => .instr (.rnd x (opKK op))
  | 0xD => .instr (.drw x y (opN op))
  | 0xE => decodeFamilyE op
  | _ => decodeFamilyF op

/-- The opcode of two bytes in memory order, the first the more significant (R52, R80). -/
def opcodeOfBytes (hi lo : Byte) : Word := hi ++ lo

/-- Decode the bytes at an instruction's address, lowest address first; later bytes are not looked at (R80). -/
def decodeBytes : List Byte → Decoded
  | hi :: lo :: _ => decodeOpcode (opcodeOfBytes hi lo)
  | _ => .unrecognized .truncated

/-- The decoder on an opcode-table word: `w` holds the row's `nbits` bits, bit 0 the least significant; the bits above
`nbits` are zero. Its two bytes are laid out as the hardware stores them, high byte first, and given to the decoder. -/
def decodeTableWord (nbits w : Nat) : Option Instr :=
  let op : Word := BitVec.ofNat 16 (w % 2 ^ nbits)
  match decodeBytes [op.extractLsb' 8 8, op.extractLsb' 0 8] with
  | .instr i => some i
  | .unrecognized _ => none

/-! ## Encoding (R84) -/

/-- A register index as the 4 bits of its field. -/
def regBits (r : Reg) : BitVec 4 := BitVec.ofNat 4 r.val

/-- The form `fX KK`: family nibble, register, byte. -/
def encodeXKK (family : BitVec 4) (x : Reg) (kk : Byte) : Word := family ++ (regBits x ++ kk)

/-- The form `fXYN`: family nibble, two registers, nibble. -/
def encodeXYN (family : BitVec 4) (x y : Reg) (n : Nibble) : Word :=
  family ++ (regBits x ++ (regBits y ++ n))

/-- The form `fNNN`: family nibble, address. -/
def encodeNNN (family : BitVec 4) (nnn : Addr12) : Word := family ++ nnn

/-- The opcode of an instruction, by the patterns of R84. -/
def encode : Instr → Word
  | .cls => 0x00E0
  | .ret => 0x00EE
  | .jp nnn => encodeNNN 0x1 nnn
  | .call nnn => encodeNNN 0x2 nnn
  | .seImm x kk => encodeXKK 0x3 x kk
  | .sneImm x kk => encodeXKK 0x4 x kk
  | .seReg x y => encodeXYN 0x5 x y 0x0
  | .ldImm x kk => encodeXKK 0x6 x kk
  | .addImm x kk => encodeXKK 0x7 x kk
  | .ldReg x y => encodeXYN 0x8 x y 0x0
  | .orReg x y => encodeXYN 0x8 x y 0x1
  | .andReg x y => encodeXYN 0x8 x y 0x2
  | .xorReg x y => encodeXYN 0x8 x y 0x3
  | .addReg x y => encodeXYN 0x8 x y 0x4
  | .subReg x y => encodeXYN 0x8 x y 0x5
  | .shr x y => encodeXYN 0x8 x y 0x6
  | .subnReg x y => encodeXYN 0x8 x y 0x7
  | .shl x y => encodeXYN 0x8 x y 0xE
  | .sneReg x y => encodeXYN 0x9 x y 0x0
  | .ldI nnn => encodeNNN 0xA nnn
  | .jpV0 nnn => encodeNNN 0xB nnn
  | .rnd x kk => encodeXKK 0xC x kk
  | .drw x y n => encodeXYN 0xD x y n
  | .skp x => encodeXKK 0xE x 0x9E
  | .sknp x => encodeXKK 0xE x 0xA1
  | .ldVxDt x => encodeXKK 0xF x 0x07
  | .ldVxK x => encodeXKK 0xF x 0x0A
  | .ldDtVx x => encodeXKK 0xF x 0x15
  | .ldStVx x => encodeXKK 0xF x 0x18
  | .addI x => encodeXKK 0xF x 0x1E
  | .ldF x => encodeXKK 0xF x 0x29
  | .ldB x => encodeXKK 0xF x 0x33
  | .ldMemVx x => encodeXKK 0xF x 0x55
  | .ldVxMem x => encodeXKK 0xF x 0x65

/-- The bytes of an instruction in memory order (R52). -/
def encodeBytes (i : Instr) : List Byte :=
  [(encode i).extractLsb' 8 8, (encode i).extractLsb' 0 8]

/-! ## Assembler text (R92) -/

/-- The hexadecimal digit of a value below 16. -/
def hexDigit (d : Nat) : String :=
  ["0", "1", "2", "3", "4", "5", "6", "7", "8", "9", "A", "B", "C", "D", "E", "F"].getD d ""

/-- `digits` hexadecimal digits of `v`, most significant first. -/
def hexText : Nat → Nat → String
  | 0, _ => ""
  | digits + 1, v => hexText digits (v / 16) ++ hexDigit (v % 16)

/-- A register's name, `V0` to `VF` (R20, R92). -/
def regText (r : Reg) : String := "V" ++ hexDigit r.val

/-- A byte as `0x` and two hexadecimal digits. -/
def byteText (kk : Byte) : String := "0x" ++ hexText 2 kk.toNat

/-- An address as `0x` and three hexadecimal digits. -/
def addrText (nnn : Addr12) : String := "0x" ++ hexText 3 nnn.toNat

/-- A disassembled instruction, by the column "syntax" of R84; SHR and SHL print no `Y`, whatever it is (R92). -/
def disassemble : Instr → String
  | .cls => "CLS"
  | .ret => "RET"
  | .jp nnn => "JP " ++ addrText nnn
  | .call nnn => "CALL " ++ addrText nnn
  | .seImm x kk => "SE " ++ regText x ++ ", " ++ byteText kk
  | .sneImm x kk => "SNE " ++ regText x ++ ", " ++ byteText kk
  | .seReg x y => "SE " ++ regText x ++ ", " ++ regText y
  | .ldImm x kk => "LD " ++ regText x ++ ", " ++ byteText kk
  | .addImm x kk => "ADD " ++ regText x ++ ", " ++ byteText kk
  | .ldReg x y => "LD " ++ regText x ++ ", " ++ regText y
  | .orReg x y => "OR " ++ regText x ++ ", " ++ regText y
  | .andReg x y => "AND " ++ regText x ++ ", " ++ regText y
  | .xorReg x y => "XOR " ++ regText x ++ ", " ++ regText y
  | .addReg x y => "ADD " ++ regText x ++ ", " ++ regText y
  | .subReg x y => "SUB " ++ regText x ++ ", " ++ regText y
  | .shr x _ => "SHR " ++ regText x
  | .subnReg x y => "SUBN " ++ regText x ++ ", " ++ regText y
  | .shl x _ => "SHL " ++ regText x
  | .sneReg x y => "SNE " ++ regText x ++ ", " ++ regText y
  | .ldI nnn => "LD I, " ++ addrText nnn
  | .jpV0 nnn => "JP V0, " ++ addrText nnn
  | .rnd x kk => "RND " ++ regText x ++ ", " ++ byteText kk
  | .drw x y n => "DRW " ++ regText x ++ ", " ++ regText y ++ ", " ++ hexDigit n.toNat
  | .skp x => "SKP " ++ regText x
  | .sknp x => "SKNP " ++ regText x
  | .ldVxDt x => "LD " ++ regText x ++ ", DT"
  | .ldVxK x => "LD " ++ regText x ++ ", K"
  | .ldDtVx x => "LD DT, " ++ regText x
  | .ldStVx x => "LD ST, " ++ regText x
  | .addI x => "ADD I, " ++ regText x
  | .ldF x => "LD F, " ++ regText x
  | .ldB x => "LD B, " ++ regText x
  | .ldMemVx x => "LD [I], " ++ regText x
  | .ldVxMem x => "LD " ++ regText x ++ ", [I]"

/-- The instruction the assembler makes of the text of `i`: SHR and SHL are written without `Y` and assemble with `Y = 0`
(R92). -/
def assembled : Instr → Instr
  | .shr x _ => .shr x 0
  | .shl x _ => .shl x 0
  | i => i

end Sys2Proof
end

