-- ==== Sys2Proof/Config.lean ====
section
/-! DEFINITION. What an implementation fixes (the two parameters of spec/00_scope.md R7, and the values the spec offers for them) and the free values that stand for
the driver's inputs of a step (spec/40_engine_cycle.md R100, R101). -/

namespace Sys2Proof

/-- The values of the parameter SHL_FLAG_MODE (R7, R160). -/
inductive ShlFlagMode where
  /-- The flag is the masked high bit, 0x80 or 0x00. -/
  | raw
  /-- The flag is the high bit shifted down, 1 or 0. -/
  | normalized
  deriving DecidableEq, Repr

/-- The value of the parameter GLYPH_TABLE: 16 glyphs of 5 bytes, in digit order (R7, R33). -/
abbrev GlyphTable := Vector Byte 80

/-- The two parameters "for the model to take as arguments" (R7). A state carries the parameters of its CORE (`State.params`),
so every meaning, every step and every statement takes both, whatever their values. Log entry 15. -/
structure Params where
  /-- GLYPH_TABLE (R33). -/
  glyphTable : GlyphTable
  /-- SHL_FLAG_MODE (R160). -/
  shlFlagMode : ShlFlagMode
  deriving DecidableEq, Repr

/-- SHL_FLAG_MODE at "this spec's value" `raw` (R7, R160, decision D9): the mode of `State.reset`. Log entry 4, unsafe. -/
def Config.shlFlagMode : ShlFlagMode := .raw

/-- PRESUMED: GLYPH_TABLE at the default value R33 offers (the conventional font, which the spec marks as from general
knowledge, D10, G5): the table of `State.reset`. Log entry 3, unsafe. Row `d` below is the glyph of digit `d`. -/
def Config.glyphTable : GlyphTable :=
  #v[0xF0, 0x90, 0x90, 0x90, 0xF0,
     0x20, 0x60, 0x20, 0x20, 0x70,
     0xF0, 0x10, 0xF0, 0x80, 0xF0,
     0xF0, 0x10, 0xF0, 0x10, 0xF0,
     0x90, 0x90, 0xF0, 0x10, 0x10,
     0xF0, 0x80, 0xF0, 0x10, 0xF0,
     0xF0, 0x80, 0xF0, 0x90, 0xF0,
     0xF0, 0x10, 0x20, 0x40, 0x40,
     0xF0, 0x90, 0xF0, 0x90, 0xF0,
     0xF0, 0x90, 0xF0, 0x10, 0xF0,
     0xF0, 0x90, 0xF0, 0x90, 0x90,
     0xE0, 0x90, 0xE0, 0x90, 0xE0,
     0xF0, 0x80, 0x80, 0x80, 0xF0,
     0xE0, 0x90, 0x90, 0x90, 0xE0,
     0xF0, 0x80, 0xF0, 0x80, 0xF0,
     0xF0, 0x80, 0xF0, 0x80, 0x80]

/-- The parameters of the CORE that `State.reset` resets, each at the value the spec offers for it. -/
def Config.params : Params := ⟨Config.glyphTable, Config.shlFlagMode⟩

/-- Free value: the key vector the driver supplies with step number `n` when the state lists no committed input (R101: the
vector is the driver's). It has no body, so a claim holds whatever it is. Log entry 1, safe. -/
opaque Config.freeKeys : Nat → Keys

/-- Free value: the random byte of step number `n` when the state lists no committed input (R101, decision D2: "a free draw
of the step"). It has no body, so a claim holds whatever it is. Log entry 1, safe. -/
opaque Config.freeRnd : Nat → Byte

end Sys2Proof
end

