-- ==== Sys2Proof/Machine/State.lean ====
section
/-! DEFINITION. The architectural state of the CORE (spec/10_state.md R20 to R36) as plain data, the fault record
(R34, spec/60_exceptions.md R211, R212), the host's reason types and the state after reset (spec/70_reset_and_hazards.md
R240). -/

namespace Sys2Proof.Machine

/-- The inputs of one step, `Step(keys, rnd)` (R100). -/
structure StepInput where
  keys : Keys
  rnd : Byte
  deriving DecidableEq, Repr

/-- The fault causes of R211. -/
inductive FaultCause where
  /-- Code 1: fetch, DXYN, FX33, FX55, FX65 accessing an address at or above 0x1000. -/
  | memoryRange
  /-- Code 2: 2NNN with `SP = 16`. -/
  | stackOverflow
  /-- Code 3: 00EE with `SP = 0`. -/
  | stackUnderflow
  /-- Code 4: EX9E, EXA1 with `x[X] > 15`. -/
  | keyIndexRange
  /-- Code 5: FX29 with `x[X] > 15`. -/
  | glyphIndexRange
  deriving DecidableEq, Repr

/-- The fault record of R34, filled as R212 says. -/
structure FaultRecord where
  cause : FaultCause
  /-- The address of the instruction being fetched or executed. -/
  pc : Word
  /-- The fetched opcode, or none when the fetch itself faulted. -/
  opcode : Option Word
  /-- What R211's last column names: an address, a register's value, or none. -/
  info : Option Nat
  deriving DecidableEq, Repr

/-- Memory as the cells that differ from what an unlisted address reads as, in rising order of address (`Memory.wf`). -/
abbrev Memory := List Host.Cell

/-- The whole state. Fields up to `fault` are the spec's (R20 to R34); the last four are the model's own and hold the
driver's inputs and the parameters (R35: inputs and parameters, not state of the CORE; log entries 1, 2 and 15). -/
structure State where
  /-- General registers `x[0..15]`; register 0xF is also the flag register (R20, R22). -/
  x : Vector Byte 16
  /-- The index register `I` (R26). -/
  index : Word
  /-- The program counter (R24). -/
  pc : Word
  /-- The stack pointer: the number of active entries, 0 to 16 (R27). -/
  sp : Fin 17
  /-- The call stack (R28). -/
  stack : Vector Word 16
  /-- The delay timer `DT` (R29). -/
  dt : Byte
  /-- The sound timer `ST` (R29). -/
  st : Byte
  /-- The keypad latch, true where pressed (R30). -/
  keypad : Keys
  /-- The framebuffer `fb[r][c]` (R31). -/
  fb : Framebuffer
  /-- The display-dirty flag (R32). -/
  dirty : Bool
  /-- Memory (R33). -/
  mem : Memory
  /-- The fault record, none while the CORE runs (R34). -/
  fault : Option FaultRecord
  /-- The model's own: the random byte of the step in progress (R100, R101). -/
  rnd : Byte
  /-- The model's own: inputs the driver has committed to, the next step's first. -/
  inputs : List StepInput
  /-- The model's own: how many steps have run, the argument of the free inputs of Config. -/
  tick : Nat
  /-- The model's own: the parameters of this CORE, which nothing changes (R7, R35; log entry 15). -/
  params : Params
  deriving DecidableEq, Repr

/-- Reasons for the host's outcome `fault`. There are none: every fault of the spec is a state the spec describes (the fault
record of R34, the machine halted, host transactions still served: R213, R214), so a faulting step answers the NEXT state
that holds the record. Nobody raises a term of this type. Log entry 5, safe. -/
inductive Fault where
  deriving DecidableEq, Repr

/-- Reasons for the host's outcome `refused`. -/
inductive Refusal where
  /-- Raised by an arm of `exec` for an instruction that has no meaning yet (no arm is left in that case). Safe: no next
  state is claimed. -/
  | notModelled (mnemonic : String)
  /-- Raised by `transact` for a transaction other than Reset before the first Reset: "no other transaction is defined on
  it" (R242, U19 "refuse"). Safe: no next state is claimed. -/
  | beforeReset
  deriving DecidableEq, Repr

/-- The state the Reset transaction installs on a CORE with parameters `p` (R240), memory with nothing listed (so GLYPH_TABLE at
0x050 and zero elsewhere, `Memory.unlisted`). The fields `rnd`, `inputs` and `tick` are the model's: DESIGN CHOICE, log
entry 2. -/
def State.resetWith (p : Params) : State where
  x := Vector.replicate 16 0
  index := 0
  pc := 0x200
  sp := 0
  stack := Vector.replicate 16 0
  dt := 0
  st := 0
  keypad := Vector.replicate 16 false
  fb := Vector.replicate 32 (Vector.replicate 64 false)
  dirty := false
  mem := []
  fault := none
  rnd := 0
  inputs := []
  tick := 0
  params := p

/-- The machine right after reset (R240), its parameters at the values the spec offers (R7, R33, R160; log entries 3 and 4). -/
def State.reset : State := State.resetWith Config.params

end Sys2Proof.Machine
end

