-- ==== Sys2Proof/Machine/Ops.lean ====
section
/-! DEFINITION. The named operations over memory, registers, the call stack and the framebuffer, and raising a fault
(spec/00_scope.md R13 to R15, spec/20_memory.md R57, spec/60_exceptions.md R212, R213). -/

namespace Sys2Proof.Machine

/-! ## Memory (R33, R50 to R60) -/

/-- What an address that is not listed reads as: the reset contents of R33, GLYPH_TABLE (`g`) in 0x050..0x09F and zero elsewhere.
Addresses at or above 0x1000 are never accessed (R57). -/
def Memory.unlisted (g : GlyphTable) (a : Nat) : Byte :=
  if h : glyphBase ≤ a ∧ a < glyphBase + 80 then g[a - glyphBase]'(by omega) else 0

/-- The canonical form: addresses strictly rising and inside the memory, and no entry that repeats what an unlisted address
reads as. -/
abbrev Memory.wf (g : GlyphTable) (m : Memory) : Prop :=
  m.Pairwise (fun c d => c.1 < d.1) ∧ ∀ c ∈ m, c.1 < memSize ∧ c.2 ≠ Memory.unlisted g c.1

/-- The byte at an address. -/
def Memory.read (g : GlyphTable) : Memory → Nat → Byte
  | [], a => Memory.unlisted g a
  | (k, v) :: rest, a => if k = a then v else Memory.read g rest a

/-- Every cell but those at address `a`. -/
def Memory.erase (m : Memory) (a : Nat) : Memory :=
  m.filter fun c => c.1 ≠ a

/-- Put a cell at its place in the rising order. -/
def Memory.insert (a : Nat) (v : Byte) : Memory → Memory
  | [] => [(a, v)]
  | c :: rest => if a < c.1 then (a, v) :: c :: rest else c :: Memory.insert a v rest

/-- Store one byte. Storing what an unlisted address reads as leaves the address unlisted. -/
def Memory.write (g : GlyphTable) (m : Memory) (a : Nat) (v : Byte) : Memory :=
  if v = Memory.unlisted g a then m.erase a else Memory.insert a v (m.erase a)

/-- Store bytes at consecutive rising addresses. -/
def Memory.writeList (g : GlyphTable) (m : Memory) : Nat → List Byte → Memory
  | _, [] => m
  | a, v :: rest => Memory.writeList g (m.write g a v) (a + 1) rest

/-- The byte of memory at `a` (R13 with `n = 1`, in range). -/
def State.byteAt (s : State) (a : Nat) : Byte := s.mem.read s.params.glyphTable a

/-- Store bytes from address `a` up (R13, one byte an address). -/
def State.storeBytes (a : Nat) (vs : List Byte) (s : State) : State :=
  { s with mem := s.mem.writeList s.params.glyphTable a vs }

/-- CheckRange (R13, R57): the address a `MemoryRange` fault reports, the lowest of the `n` bytes at `a` that lies at or above
0x1000, or none when all are inside the memory. An access of no bytes is always inside (R58, C14). -/
def outOfRange (a n : Nat) : Option Nat :=
  if 1 ≤ n ∧ memSize < a + n then some (max a memSize) else none

/-! ## Registers -/

/-- `x[r]`. -/
def State.reg (s : State) (r : Reg) : Byte := s.x[r]

/-- `x[r] <- v`. -/
def State.setReg (r : Reg) (v : Byte) (s : State) : State := { s with x := s.x.set r v }

/-- `pc <- a`; the width takes the value mod 2^16 (R15). -/
def State.setPc (a : Word) (s : State) : State := { s with pc := a }

/-- `I <- a`. -/
def State.setIndex (a : Word) (s : State) : State := { s with index := a }

/-- `DT <- v`. -/
def State.setDt (v : Byte) (s : State) : State := { s with dt := v }

/-- `ST <- v`. -/
def State.setSt (v : Byte) (s : State) : State := { s with st := v }

/-- `keypad[k]`. -/
def State.key (s : State) (k : Fin 16) : Bool := s.keypad[k]

/-! ## The call stack (R27, R28) -/

/-- `stack[SP] <- a; SP <- SP + 1`, or none when the stack is full (`SP = 16`). -/
def State.push (a : Word) (s : State) : Option State :=
  if h : s.sp.val < 16 then
    some { s with stack := s.stack.set s.sp.val a, sp := ⟨s.sp.val + 1, by omega⟩ }
  else none

/-- `SP <- SP - 1` and the entry then at `stack[SP]`, or none when the stack is empty (`SP = 0`). The entry stays. -/
def State.pop (s : State) : Option (Word × State) :=
  if h : 0 < s.sp.val then
    some (s.stack[s.sp.val - 1]'(by omega), { s with sp := ⟨s.sp.val - 1, by omega⟩ })
  else none

/-! ## The framebuffer (R31) -/

/-- `fb[r][c]`. -/
def State.pixel (s : State) (r : Fin 32) (c : Fin 64) : Bool := s.fb[r][c]

/-- A drawing in progress: the framebuffer and whether a pixel has gone from on to off so far. -/
structure Drawing where
  fb : Framebuffer
  hit : Bool
  deriving DecidableEq, Repr

/-- XOR one bit onto pixel `(r, c)`, OR-accumulating the collision (R121). -/
def Drawing.plot (r : Fin 32) (c : Fin 64) (bit : Bool) (d : Drawing) : Drawing where
  fb := d.fb.set r (d.fb[r].set c (d.fb[r][c] ^^ bit))
  hit := d.hit || (bit && d.fb[r][c])

/-- Install a finished drawing: the framebuffer, the flag (1 when a pixel was turned off, else 0) and `dirty` (R121). -/
def State.show (d : Drawing) (s : State) : State :=
  { s with fb := d.fb, x := s.x.set regF (if d.hit then 1 else 0), dirty := true }

/-! ## Raising a fault (R14, R212, R213) -/

/-- The fault entry: the record `{cause, pc, opcode, info}` is set and `pc` holds the faulting instruction's address `a`.
There is no handler, no saved status and no return: the CORE is then halted until Reset (R213, R214, R217). -/
def State.enterFault (cause : FaultCause) (a : Word) (opcode : Option Word) (info : Option Nat) (s : State) : State :=
  { s with pc := a, fault := some ⟨cause, a, opcode, info⟩ }

/-- `raise` from the handler of instruction `i`. The fetch has advanced `pc` by 2 (R104), so the instruction stands at
`pc - 2`; its opcode is `encode i`, the one opcode that decodes to `i`
(Obligations.EncodeOfDecodeIsIdentity). Every check comes before the first write, so nothing of the
instruction is left to undo (R213). -/
def raise (i : Instr) (cause : FaultCause) (info : Option Nat) (s : State) : Host.Outcome State Fault Refusal :=
  .next (s.enterFault cause (s.pc - 2) (some (encode i)) info)

end Sys2Proof.Machine
end

