-- ==== Sys2Proof/Machine/Flags.lean ====
section
/-! DEFINITION. The values written to the flag register `x[0xF]` (spec/10_state.md R23; spec/43_alu.md R156 to R160). The
collision flag of DXYN is `State.show`. -/

namespace Sys2Proof.Machine

/-- A flag as a register value, 1 or 0. -/
def flagByte (b : Bool) : Byte := if b then 1 else 0

/-- 8XY4: 1 when the true sum exceeds 255 (R156). -/
def carryFlag (sum : Nat) : Byte := flagByte (decide (255 < sum))

/-- 8XY5, 8XY7: 1 when the minuend is at least the subtrahend, "no borrow" (R157, R159). -/
def noBorrowFlag (minuend subtrahend : Byte) : Byte := flagByte (decide (subtrahend.toNat ≤ minuend.toNat))

/-- 8XY6: bit 0 before the shift (R158). -/
def shrFlag (v : Byte) : Byte := v &&& 0x01

/-- 8XYE: the high bit before the shift, masked in raw mode and shifted down in normalized mode (R160). -/
def shlFlag : ShlFlagMode → Byte → Byte
  | .raw, v => v &&& 0x80
  | .normalized, v => (v >>> 7) &&& 0x01

/-- `x[0xF] <- v`. -/
def State.setFlag (v : Byte) (s : State) : State := s.setReg regF v

end Sys2Proof.Machine
end

