-- ==== Sys2Proof/Machine/Operands.lean ====
section
/-! DEFINITION. Operand forms shared by the meanings: zero extension, skips, key and glyph indexes, BCD digits, register
blocks and sprites (spec/30_encoding.md R82; spec/41_display.md R121, R122; spec/44_keys_timers.md; spec/45_index_memory.md). -/

namespace Sys2Proof.Machine

/-- `zext_16(NNN)` (R9, R82). -/
def zextAddr (nnn : Addr12) : Word := nnn.setWidth 16

/-- `zext_16` of a register value (R137, R191). -/
def zextByte (v : Byte) : Word := v.setWidth 16

/-- `if c then pc <- pc + 2` (R133 to R136, R180, R181). -/
def State.skipIf (c : Bool) (s : State) : State := if c then s.setPc (s.pc + 2) else s

/-- A register value as a key index, or none above 15 (R180). -/
def keyIndex (v : Byte) : Option (Fin 16) := if h : v.toNat < 16 then some ⟨v.toNat, h⟩ else none

/-- The least pressed key, keys scanned in ascending order (R185). -/
def firstKey (keys : Keys) : Option (Fin 16) := (List.finRange 16).find? fun k => keys[k]

/-- The address of the glyph of digit `v`, or none above 15 (R192). -/
def glyphAddress (v : Byte) : Option Word :=
  if v.toNat < 16 then some (BitVec.ofNat 16 (glyphBase + 5 * v.toNat)) else none

/-- Hundreds, tens and ones digits (R193). -/
def bcdDigits (v : Byte) : List Byte :=
  [BitVec.ofNat 8 (v.toNat / 100), BitVec.ofNat 8 (v.toNat / 10 % 10), BitVec.ofNat 8 (v.toNat % 10)]

/-- The register indexes 0 to `x` inclusive, ascending (R82, R194, R195). -/
def regsUpTo (x : Reg) : List Reg := (List.finRange 16).filter fun r => r ≤ x

/-- FX55's source: the registers 0 to `x` (R194). -/
def State.regBlock (x : Reg) (s : State) : List Byte := (regsUpTo x).map s.reg

/-- FX65's transfer: `x[r] <- mem[a + r]` for `r` from 0 to `x` (R195). -/
def State.loadRegs (a : Nat) (x : Reg) (s : State) : State :=
  (regsUpTo x).foldl (fun t r => t.setReg r (t.byteAt (a + r.val))) s

/-- Bit `7 - col` of a sprite row is its column `col`: bit 7 is the leftmost (R122). -/
def spriteBit (b : Byte) (col : Nat) : Bool := b.getLsbD (7 - col)

/-- The framebuffer row of an unwrapped row number (R121). -/
def wrapRow (r : Nat) : Fin 32 := Fin.ofNat 32 r

/-- The framebuffer column of an unwrapped column number (R121). -/
def wrapCol (c : Nat) : Fin 64 := Fin.ofNat 64 c

/-- Draw one sprite row: the columns 0 to 7 in order (R121). -/
def drawRow (cx r : Nat) (b : Byte) (d : Drawing) : Drawing :=
  (List.range 8).foldl (fun d col => d.plot (wrapRow r) (wrapCol (cx + col)) (spriteBit b col)) d

/-- Draw `n` sprite rows, the byte at `a + row` at framebuffer row `cy + row` (R121). -/
def drawSprite (g : GlyphTable) (m : Memory) (a cx cy n : Nat) (d : Drawing) : Drawing :=
  (List.range n).foldl (fun d row => drawRow cx (cy + row) (m.read g (a + row)) d) d

end Sys2Proof.Machine
end

