-- ==== Sys2Proof/Machine/Alu.lean ====
section
/-! DEFINITION. Load, add, logic, subtract, shift and random (spec/43_alu.md R150 to R162). No meaning here changes `pc`. -/

namespace Sys2Proof.Machine

/-- LD VX, KK (R150). -/
def execLdImm (x : Reg) (kk : Byte) (s : State) : Host.Outcome State Fault Refusal :=
  .next (s.setReg x kk)

/-- ADD VX, KK (R151): wraps, no flag. -/
def execAddImm (x : Reg) (kk : Byte) (s : State) : Host.Outcome State Fault Refusal :=
  .next (s.setReg x (s.reg x + kk))

/-- LD VX, VY (R152). -/
def execLdReg (x y : Reg) (s : State) : Host.Outcome State Fault Refusal :=
  .next (s.setReg x (s.reg y))

/-- OR VX, VY (R153): no flag. -/
def execOrReg (x y : Reg) (s : State) : Host.Outcome State Fault Refusal :=
  .next (s.setReg x (s.reg x ||| s.reg y))

/-- AND VX, VY (R154): no flag. -/
def execAndReg (x y : Reg) (s : State) : Host.Outcome State Fault Refusal :=
  .next (s.setReg x (s.reg x &&& s.reg y))

/-- XOR VX, VY (R155): no flag. -/
def execXorReg (x y : Reg) (s : State) : Host.Outcome State Fault Refusal :=
  .next (s.setReg x (s.reg x ^^^ s.reg y))

/-- ADD VX, VY (R156): the destination, then the carry. -/
def execAddReg (x y : Reg) (s : State) : Host.Outcome State Fault Refusal :=
  let sum := (s.reg x).toNat + (s.reg y).toNat
  .next ((s.setReg x (BitVec.ofNat 8 sum)).setFlag (carryFlag sum))

/-- `x[X] <- (minuend - subtrahend) mod 256`, then the no-borrow flag (R157, R159, decision D13). -/
def State.subtract (x : Reg) (minuend subtrahend : Byte) (s : State) : State :=
  (s.setReg x (minuend - subtrahend)).setFlag (noBorrowFlag minuend subtrahend)

/-- SUB VX, VY (R157): x[X] - x[Y]. -/
def execSubReg (x y : Reg) (s : State) : Host.Outcome State Fault Refusal :=
  .next (s.subtract x (s.reg x) (s.reg y))

/-- SUBN VX, VY (R159): x[Y] - x[X]. -/
def execSubnReg (x y : Reg) (s : State) : Host.Outcome State Fault Refusal :=
  .next (s.subtract x (s.reg y) (s.reg x))

/-- SHR VX (R158): the flag first, and the shift reads `x[X]` after it. `y` is not used. -/
def execShr (x _y : Reg) (s : State) : Host.Outcome State Fault Refusal :=
  let t := s.setFlag (shrFlag (s.reg x))
  .next (t.setReg x (t.reg x >>> 1))

/-- 8XYE under a given SHL_FLAG_MODE (R160): the flag first, and the shift reads `x[X]` after it. -/
def State.shiftLeft (mode : ShlFlagMode) (x : Reg) (s : State) : State :=
  let t := s.setFlag (shlFlag mode (s.reg x))
  t.setReg x (t.reg x <<< 1)

/-- SHL VX (R160) under the SHL_FLAG_MODE of this CORE, a parameter (R7). `y` is not used. -/
def execShl (x _y : Reg) (s : State) : Host.Outcome State Fault Refusal :=
  .next (s.shiftLeft s.params.shlFlagMode x)

/-- RND VX, KK (R161): the step's random byte and the mask. -/
def execRnd (x : Reg) (kk : Byte) (s : State) : Host.Outcome State Fault Refusal :=
  .next (s.setReg x (s.rnd &&& kk))

end Sys2Proof.Machine
end

