-- ==== Sys2Proof/Machine/Display.lean ====
section
/-! DEFINITION. The display instructions (spec/41_display.md R120 to R123). On entry `pc` is past the instruction (R104). -/

namespace Sys2Proof.Machine

/-- CLS (R120). -/
def execCls (s : State) : Host.Outcome State Fault Refusal :=
  .next { s with fb := Vector.replicate 32 (Vector.replicate 64 false), dirty := true }

/-- DRW VX, VY, N (R121). The coordinates are read before the flag is written (R123). -/
def execDrw (x y : Reg) (n : Nibble) (s : State) : Host.Outcome State Fault Refusal :=
  match outOfRange s.index.toNat n.toNat with
  | some a => raise (.drw x y n) .memoryRange (some a) s
  | none =>
    .next (s.show
      (drawSprite s.params.glyphTable s.mem s.index.toNat (s.reg x).toNat (s.reg y).toNat n.toNat ⟨s.fb, false⟩))

end Sys2Proof.Machine
end

