-- ==== Sys2Proof/Machine/IndexMemory.lean ====
section
/-! DEFINITION. Index register and memory-block instructions (spec/45_index_memory.md R190 to R196). Effective addresses are
natural numbers; no access changes `I`. -/

namespace Sys2Proof.Machine

/-- LD I, NNN (R190). -/
def execLdI (nnn : Addr12) (s : State) : Host.Outcome State Fault Refusal :=
  .next (s.setIndex (zextAddr nnn))

/-- ADD I, VX (R191): mod 2^16 (decision D18), no flag. -/
def execAddI (x : Reg) (s : State) : Host.Outcome State Fault Refusal :=
  .next (s.setIndex (s.index + zextByte (s.reg x)))

/-- LD F, VX (R192). -/
def execLdF (x : Reg) (s : State) : Host.Outcome State Fault Refusal :=
  match glyphAddress (s.reg x) with
  | none => raise (.ldF x) .glyphIndexRange (some (s.reg x).toNat) s
  | some a => .next (s.setIndex a)

/-- LD B, VX (R193): three digit bytes at `I`. -/
def execLdB (x : Reg) (s : State) : Host.Outcome State Fault Refusal :=
  match outOfRange s.index.toNat 3 with
  | some a => raise (.ldB x) .memoryRange (some a) s
  | none => .next (s.storeBytes s.index.toNat (bcdDigits (s.reg x)))

/-- LD [I], VX (R194): registers 0 to `x` to memory at `I`. -/
def execLdMemVx (x : Reg) (s : State) : Host.Outcome State Fault Refusal :=
  match outOfRange s.index.toNat (x.val + 1) with
  | some a => raise (.ldMemVx x) .memoryRange (some a) s
  | none => .next (s.storeBytes s.index.toNat (s.regBlock x))

/-- LD VX, [I] (R195): memory at `I` to registers 0 to `x`. -/
def execLdVxMem (x : Reg) (s : State) : Host.Outcome State Fault Refusal :=
  match outOfRange s.index.toNat (x.val + 1) with
  | some a => raise (.ldVxMem x) .memoryRange (some a) s
  | none => .next (s.loadRegs s.index.toNat x)

end Sys2Proof.Machine
end

