-- ==== Sys2Proof/Machine/KeysTimers.lean ====
section
/-! DEFINITION. Keypad and timer instructions (spec/44_keys_timers.md R180 to R185). The keypad latch holds the key vector of
the step in progress (R101); the timers are decremented after the instruction (R107). -/

namespace Sys2Proof.Machine

/-- SKP VX (R180). -/
def execSkp (x : Reg) (s : State) : Host.Outcome State Fault Refusal :=
  match keyIndex (s.reg x) with
  | none => raise (.skp x) .keyIndexRange (some (s.reg x).toNat) s
  | some k => .next (s.skipIf (s.key k))

/-- SKNP VX (R181). -/
def execSknp (x : Reg) (s : State) : Host.Outcome State Fault Refusal :=
  match keyIndex (s.reg x) with
  | none => raise (.sknp x) .keyIndexRange (some (s.reg x).toNat) s
  | some k => .next (s.skipIf (!s.key k))

/-- LD VX, DT (R182). -/
def execLdVxDt (x : Reg) (s : State) : Host.Outcome State Fault Refusal :=
  .next (s.setReg x s.dt)

/-- LD DT, VX (R183). -/
def execLdDtVx (x : Reg) (s : State) : Host.Outcome State Fault Refusal :=
  .next (s.setDt (s.reg x))

/-- LD ST, VX (R184). -/
def execLdStVx (x : Reg) (s : State) : Host.Outcome State Fault Refusal :=
  .next (s.setSt (s.reg x))

/-- LD VX, K (R185): the least pressed key, or `pc` back on this instruction when no key is pressed. -/
def execLdVxK (x : Reg) (s : State) : Host.Outcome State Fault Refusal :=
  .next
    (match firstKey s.keypad with
    | some k => s.setReg x (BitVec.ofNat 8 k.val)
    | none => s.setPc (s.pc - 2))

end Sys2Proof.Machine
end

