-- ==== Sys2Proof/Machine/Cycle.lean ====
section
/-! DEFINITION. The fetch-decode-execute cycle (spec/40_engine_cycle.md R100 to R111), the pseudocode of R109. -/

namespace Sys2Proof.Machine

/-- The inputs of the coming step: the first the driver has committed to, or free values when it has committed to none
(R101, decision D2; log entry 1). -/
def State.currentInput (s : State) : StepInput :=
  match s.inputs with
  | i :: _ => i
  | [] => ⟨Config.freeKeys s.tick, Config.freeRnd s.tick⟩

/-- `keypad <- keys`, the step's random byte beside it, and the input used up (R101). -/
def State.latch (s : State) : State :=
  { s with
    keypad := s.currentInput.keys
    rnd := s.currentInput.rnd
    inputs := s.inputs.tail
    tick := s.tick + 1 }

/-- `MemRead(pc, 2)`, big-endian, at any alignment (R52, R53, R103). -/
def State.opcodeAtPc (s : State) : Word :=
  opcodeOfBytes (s.byteAt s.pc.toNat) (s.byteAt (s.pc.toNat + 1))

/-- An opcode that selects no row does nothing: no register, byte, entry, pixel or flag changes (R90, R106). -/
def execUnrecognized (s : State) : Host.Outcome State Fault Refusal := .next s

/-- `Execute(op, rnd)` (R105, R106, R109). -/
def execOpcode (op : Word) (s : State) : Host.Outcome State Fault Refusal :=
  match decodeOpcode op with
  | .instr i => exec i s
  | .unrecognized _ => execUnrecognized s

/-- One count off a timer that is not zero (R107). -/
def timerTick (v : Byte) : Byte := if v = 0 then 0 else v - 1

/-- Both timers, after the handler (R107). -/
def State.decrementTimers (s : State) : State := { s with dt := timerTick s.dt, st := timerTick s.st }

/-- The end of a step from the latched state `s0` when its handler left `t`: the timers count down, or, when the handler
raised, every write is undone and only the record is set (R14, R107, R109, R213). -/
def State.finish (s0 t : State) : State :=
  if t.fault.isSome then { s0 with fault := t.fault } else t.decrementTimers

/-- The step of R109. A halted CORE changes nothing (R102, R214). -/
def cycle (s : State) : Host.Outcome State Fault Refusal :=
  if s.fault.isSome then .next s
  else
    let s0 := s.latch
    match outOfRange s0.pc.toNat 2 with
    | some a => .next (s0.enterFault .memoryRange s0.pc none (some a))
    | none =>
      match execOpcode s0.opcodeAtPc (s0.setPc (s0.pc + 2)) with
      | .next t => .next (s0.finish t)
      | .fault r => .fault r
      | .refused r => .refused r

end Sys2Proof.Machine
end

