-- ==== Sys2Proof/Machine/Step.lean ====
section
/-! DEFINITION. One step of the machine, and where a test places the instruction it fetches next. -/

namespace Sys2Proof.Machine

/-- One step: the cycle of spec/40_engine_cycle.md R109. -/
def step (s : State) : Host.Outcome State Fault Refusal := cycle s

/-- `s` with the instruction `w` (of `nbits` bits, the bits above them zero) stored where `step` fetches next. Fetching needs a
running CORE (R102) and a `pc` whose two bytes are in memory (R103), so a fault record is cleared and a `pc` at or above
0xFFF becomes the reset vector. Log entry 10. -/
def State.withFetchWord (s : State) (nbits w : Nat) : State :=
  let op : Word := BitVec.ofNat 16 (w % 2 ^ nbits)
  let pc : Word := if s.pc.toNat + 2 ≤ memSize then s.pc else 0x200
  { s with
    pc := pc
    fault := none
    mem := s.mem.writeList s.params.glyphTable pc.toNat [op.extractLsb' 8 8, op.extractLsb' 0 8] }

end Sys2Proof.Machine
end

