-- ==== Sys2Proof/Machine/Transactions.lean ====
section
/-! DEFINITION. The host transactions (spec/60_exceptions.md R224 to R231, spec/70_reset_and_hazards.md R240 to R244). They
happen only between steps and each is atomic (R225). -/

namespace Sys2Proof.Machine

/-- The transactions of R224. -/
inductive Transaction where
  | reset
  | load (bytes : List Byte)
  | step (keys : Keys) (rnd : Byte)
  | snapshot
  | takeDirty
  | readFault
  deriving DecidableEq, Repr

/-- What a transaction answers the host (R224, column "result"). -/
inductive Response where
  /-- No result: Reset, Load, Step. -/
  | done
  /-- A copy of the framebuffer: Snapshot. -/
  | frame (fb : Framebuffer)
  /-- The old value of `dirty`: TakeDirty. -/
  | wasDirty (b : Bool)
  /-- The fault record, none when there is no fault: ReadFault. -/
  | record (f : Option FaultRecord)
  deriving DecidableEq, Repr

/-- Load (R226): at most 3584 bytes to memory from 0x200 up; the excess is discarded and nothing else changes. -/
def State.load (bytes : List Byte) (s : State) : State := s.storeBytes loadBase (bytes.take loadCap)

/-- Step(keys, rnd) (R100): one step that takes these inputs. The driver's list of committed inputs stays as it was. -/
def State.stepWith (keys : Keys) (rnd : Byte) (s : State) : Host.Outcome State Fault Refusal :=
  match step { s with inputs := ⟨keys, rnd⟩ :: s.inputs } with
  | .next t => .next { t with inputs := s.inputs }
  | .fault r => .fault r
  | .refused r => .refused r

/-- Reset on a machine in use (R240, R242): nothing of the old state survives. The driver's inputs and the parameters are
no state of the CORE (R35), so the list and the number of the free inputs go on (log entry 12) and the parameters stay. -/
def State.resetAgain (s : State) : State := { State.resetWith s.params with inputs := s.inputs, tick := s.tick }

/-- Snapshot (R227). -/
def State.snapshot (s : State) : Framebuffer := s.fb

/-- TakeDirty (R228): the old value, and the flag cleared. -/
def State.takeDirty (s : State) : Bool × State := (s.dirty, { s with dirty := false })

/-- ReadFault (R230). -/
def State.readFault (s : State) : Option FaultRecord := s.fault

/-- The code of a fault cause (R211). -/
def FaultCause.code : FaultCause → Nat
  | .memoryRange => 1
  | .stackOverflow => 2
  | .stackUnderflow => 3
  | .keyIndexRange => 4
  | .glyphIndexRange => 5

/-- The fault code of a record as read, 0 for no fault (R211). -/
def faultCode : Option FaultRecord → Nat
  | none => 0
  | some r => r.cause.code

/-- One transaction on a CORE that has been reset (R224). While it is halted all but Step work as usual (R214, D30). -/
def State.serve (t : Transaction) (s : State) : Host.Outcome (State × Response) Fault Refusal :=
  match t with
  | .reset => .next (s.resetAgain, .done)
  | .load bytes => .next (s.load bytes, .done)
  | .step keys rnd =>
    match s.stepWith keys rnd with
    | .next u => .next (u, .done)
    | .fault r => .fault r
    | .refused r => .refused r
  | .snapshot => .next (s, .frame s.snapshot)
  | .takeDirty => .next (s.takeDirty.2, .wasDirty s.takeDirty.1)
  | .readFault => .next (s, .record s.readFault)

/-- One transaction on a CORE that has its parameters (R7) and, before the first Reset, nothing else: then only Reset is
defined (R242, U19). -/
def transact (t : Transaction) : Params ⊕ State → Host.Outcome (State × Response) Fault Refusal
  | .inr s => s.serve t
  | .inl p =>
    match t with
    | .reset => .next (State.resetWith p, .done)
    | .load _ | .step _ _ | .snapshot | .takeDirty | .readFault => .refused .beforeReset

end Sys2Proof.Machine
end

