-- ==== Sys2Proof/Safety.lean ====
section
/-! DEFINITION. What counts as a safe run (spec/60_exceptions.md R214, R231), the invariants of the machine and the frames
("everything else is unchanged") that the statements are written with. -/

namespace Sys2Proof.Safety

open Sys2Proof.Machine

/-! ## Runs -/

/-- The CORE runs: no fault is recorded (R102). -/
abbrev Running (s : State) : Prop := s.fault = none

/-- `k` steps from `s` answer a state that still runs: the run of `k` steps ends well (R231). -/
def EndsWell (k : Nat) (s : State) : Prop :=
  ∃ t, Host.Core.run Sys2Proof.core k s = .next t ∧ Running t

/-- Within `k` steps a fault is recorded: the run ends badly (R231). -/
def EndsBadly (k : Nat) (s : State) : Prop :=
  ∃ t, Host.Core.run Sys2Proof.core k s = .next t ∧ ¬ Running t

/-! ## Invariants -/

/-- Memory is in the canonical form of the model's own choice (log entry 13). -/
abbrev MemoryCanonical (s : State) : Prop := s.mem.wf s.params.glyphTable

/-- Every call-stack entry is at most 0x1000 (R130, R132: a pushed value is at most 0x1000) and `pc` is at most 0x10FE, the
highest target of BNNN (R137). -/
abbrev AddressesBounded (s : State) : Prop :=
  s.pc.toNat ≤ 0x10FE ∧ ∀ j : Fin 16, s.stack[j].toNat ≤ 0x1000

/-- What a record of a given cause may say (R211, R212): the opcode is missing only for a fetch, and `info` is an address at
or above 0x1000, none, or a register value above 15. -/
abbrev RecordShape (r : FaultRecord) : Prop :=
  match r.cause with
  | .memoryRange => ∃ a, r.info = some a ∧ 0x1000 ≤ a
  | .stackOverflow | .stackUnderflow => r.opcode.isSome ∧ r.info = none
  | .keyIndexRange | .glyphIndexRange => r.opcode.isSome ∧ ∃ v, r.info = some v ∧ 15 < v ∧ v < 256

/-- A recorded fault is that of the instruction at `pc` and has the shape of its cause (R212, R213). -/
def FaultConsistent (s : State) : Prop :=
  ∀ r, s.fault = some r → r.pc = s.pc ∧ RecordShape r

/-! ## Frames -/

/-- Every general register but those of `except` keeps its value. -/
def KeepsRegs (except : List Reg) (s t : State) : Prop := ∀ r, r ∉ except → t.reg r = s.reg r

/-- Every byte of memory reads as before. -/
def KeepsMem (s t : State) : Prop := ∀ a, t.byteAt a = s.byteAt a

/-- Every byte of memory outside the `n` bytes at `lo` reads as before. -/
def KeepsMemOutside (lo n : Nat) (s t : State) : Prop :=
  ∀ a, ¬ (lo ≤ a ∧ a < lo + n) → t.byteAt a = s.byteAt a

/-- The stack pointer and every call-stack entry stay. -/
def KeepsStack (s t : State) : Prop := t.sp = s.sp ∧ ∀ j : Fin 16, t.stack[j] = s.stack[j]

/-- Both timers stay. -/
def KeepsTimers (s t : State) : Prop := t.dt = s.dt ∧ t.st = s.st

/-- Every pixel and the dirty flag stay. -/
def KeepsDisplay (s t : State) : Prop := (∀ r c, t.pixel r c = s.pixel r c) ∧ t.dirty = s.dirty

/-- The keypad latch, the fault record, the driver's inputs and the parameters stay. -/
def KeepsHost (s t : State) : Prop :=
  (∀ k, t.key k = s.key k) ∧ t.fault = s.fault ∧ t.rnd = s.rnd ∧ t.inputs = s.inputs ∧ t.tick = s.tick ∧
    t.params = s.params

/-- Everything but the general registers and `pc` stays: the frame of a register instruction (the statement says what
registers and `pc` become). -/
def KeepsAllButRegs (s t : State) : Prop :=
  t.index = s.index ∧ KeepsMem s t ∧ KeepsStack s t ∧ KeepsTimers s t ∧ KeepsDisplay s t ∧ KeepsHost s t

/-- Every register, `I`, all of memory, the timers, the display and the host's part stay: the frame of a control transfer (the
statement says what `pc` and the stack become). -/
def KeepsAllButControl (s t : State) : Prop :=
  KeepsRegs [] s t ∧ t.index = s.index ∧ KeepsMem s t ∧ KeepsTimers s t ∧ KeepsDisplay s t ∧ KeepsHost s t

/-- A fault entry from the handler of `i` (R212, R213): the record names the cause, the instruction's address (`pc` is past it,
R104), its opcode and `info`; `pc` is back on the instruction; everything else keeps its value. -/
def FaultsWith (i : Instr) (cause : FaultCause) (info : Option Nat) (s t : State) : Prop :=
  t.fault = some ⟨cause, s.pc - 2, some (encode i), info⟩ ∧ t.pc = s.pc - 2 ∧ KeepsRegs [] s t ∧
    t.index = s.index ∧ KeepsMem s t ∧ KeepsStack s t ∧ KeepsTimers s t ∧ KeepsDisplay s t ∧
    (∀ k, t.key k = s.key k) ∧ t.rnd = s.rnd ∧ t.inputs = s.inputs ∧ t.tick = s.tick ∧ t.params = s.params

/-! ## Encodings -/

/-- Every opcode that selects the row `matchBits`, `mask` of R84 decodes to the instruction `build` makes of its fields. -/
def EncodedAs (matchBits mask : Word) (build : Word → Instr) : Prop :=
  ∀ op, op &&& mask = matchBits → decodeOpcode op = .instr (build op)

/-! ## Sprites -/

/-- A set bit of the sprite of DXYN lands on pixel `(r, c)` (R121, R122): row `row` of the sprite is the byte at `I + row`, its
bit `7 - col` is column `col`, and both coordinates wrap. -/
def SpriteCovers (x y : Reg) (n : Nibble) (s : State) (r : Fin 32) (c : Fin 64) : Prop :=
  ∃ row col : Nat, row < n.toNat ∧ col < 8 ∧
    ((s.reg y).toNat + row) % 32 = r.val ∧ ((s.reg x).toNat + col) % 64 = c.val ∧
    (s.byteAt (s.index.toNat + row)).getLsbD (7 - col) = true

end Sys2Proof.Safety
end

