-- ==== Sys2Proof/Certificates/Slice0/Obligations.lean ====
section
/-! DEFINITION. The statements about the CORE that are left to be proved, each from the numbered rules its docstring cites. -/

open Sys2Proof Sys2Proof.Machine Sys2Proof.Safety

namespace Sys2Proof.Statements

/-! ## What the rules say of an instruction as syntax -/

/-- The general registers an instruction writes (R21, R23), flag register included. -/
def destRegs : Instr → List Reg
  | .ldImm x _ | .addImm x _ | .ldReg x _ | .orReg x _ | .andReg x _ | .xorReg x _ => [x]
  | .addReg x _ | .subReg x _ | .shr x _ | .subnReg x _ | .shl x _ => [x, regF]
  | .rnd x _ | .ldVxDt x | .ldVxK x => [x]
  | .drw _ _ _ => [regF]
  | .ldVxMem x => regsUpTo x
  | .cls | .ret | .jp _ | .call _ | .seImm _ _ | .sneImm _ _ | .seReg _ _ | .sneReg _ _ | .ldI _ | .jpV0 _ => []
  | .skp _ | .sknp _ | .ldDtVx _ | .ldStVx _ | .addI _ | .ldF _ | .ldB _ | .ldMemVx _ => []

/-- The instructions that write `I` (R26). -/
def writesIndex (i : Instr) : Prop :=
  (∃ nnn, i = .ldI nnn) ∨ (∃ x, i = .addI x) ∨ ∃ x, i = .ldF x

/-- The instructions that write memory (R51). -/
def writesMemory (i : Instr) : Prop := (∃ x, i = .ldB x) ∨ ∃ x, i = .ldMemVx x

/-- The instructions that write the framebuffer and the dirty flag (R31, R32). -/
def writesDisplay (i : Instr) : Prop := i = .cls ∨ ∃ x y n, i = .drw x y n

/-- The fault an instruction raises in a state, by the conditions of R211: its cause and `info`, or none. -/
def expectedFault (s : State) : Instr → Option (FaultCause × Option Nat)
  | .drw _ _ n =>
    if n ≠ 0 ∧ s.index.toNat + n.toNat > 0x1000 then some (.memoryRange, some (max s.index.toNat 0x1000)) else none
  | .ldB _ => if s.index.toNat > 0xFFD then some (.memoryRange, some (max s.index.toNat 0x1000)) else none
  | .ldMemVx x | .ldVxMem x =>
    if s.index.toNat + x.val > 0xFFF then some (.memoryRange, some (max s.index.toNat 0x1000)) else none
  | .call _ => if s.sp = 16 then some (.stackOverflow, none) else none
  | .ret => if s.sp = 0 then some (.stackUnderflow, none) else none
  | .skp x | .sknp x => if (s.reg x).toNat > 15 then some (.keyIndexRange, some (s.reg x).toNat) else none
  | .ldF x => if (s.reg x).toNat > 15 then some (.glyphIndexRange, some (s.reg x).toNat) else none
  | _ => none

/-- `pc` after an instruction fetched from `a`, by the table of R25, for a state `s` whose keypad is latched. -/
def pcAfter (a : Word) (s : State) : Instr → Word
  | .seImm x kk => if s.reg x = kk then a + 4 else a + 2
  | .sneImm x kk => if s.reg x ≠ kk then a + 4 else a + 2
  | .seReg x y => if s.reg x = s.reg y then a + 4 else a + 2
  | .sneReg x y => if s.reg x ≠ s.reg y then a + 4 else a + 2
  | .skp x => if s.key (Fin.ofNat 16 (s.reg x).toNat) then a + 4 else a + 2
  | .sknp x => if s.key (Fin.ofNat 16 (s.reg x).toNat) then a + 2 else a + 4
  | .jp nnn | .call nnn => BitVec.ofNat 16 nnn.toNat
  | .jpV0 nnn => BitVec.ofNat 16 (nnn.toNat + (s.reg 0).toNat)
  | .ret => s.stack.toList.getD (s.sp.val - 1) 0
  | .ldVxK _ => if ∃ k, s.key k = true then a + 2 else a
  | _ => a + 2

/-- The condition of R90 on an opcode: the rows of its table. -/
def UnrecognizedByTable (op : Word) : Prop :=
  (op.toNat / 4096 = 0x0 ∧ op ≠ 0x00E0 ∧ op ≠ 0x00EE) ∨
  ((op.toNat / 4096 = 0x5 ∨ op.toNat / 4096 = 0x9) ∧ op.toNat % 16 ≠ 0) ∨
  (op.toNat / 4096 = 0x8 ∧ op.toNat % 16 ∈ [8, 9, 0xA, 0xB, 0xC, 0xD, 0xF]) ∨
  (op.toNat / 4096 = 0xE ∧ op.toNat % 256 ∉ [0x9E, 0xA1]) ∨
  (op.toNat / 4096 = 0xF ∧ op.toNat % 256 ∉ [0x07, 0x0A, 0x15, 0x18, 0x1E, 0x29, 0x33, 0x55, 0x65])

end Sys2Proof.Statements

open Sys2Proof.Statements

/-! ## Reset and encoding -/

/-- R240: Reset sets every element of state to its reset value, for every GLYPH_TABLE and SHL_FLAG_MODE (R7); `State.reset` is
the one with the values the spec offers. The reset values of the keypad, framebuffer and dirty flag are the spec's
decision D19. -/
def Obligations.ResetInstallsSpecState : Prop :=
  (∀ p : Params, let t := State.resetWith p
    (∀ r, t.reg r = 0) ∧ t.pc = 0x200 ∧ t.index = 0 ∧ t.sp = 0 ∧ (∀ j : Fin 16, t.stack[j] = 0) ∧ t.dt = 0 ∧ t.st = 0 ∧
    (∀ k, t.key k = false) ∧ (∀ r c, t.pixel r c = false) ∧ t.dirty = false ∧
    (∀ a < 0x1000, ¬ (0x050 ≤ a ∧ a < 0x0A0) → t.byteAt a = 0) ∧
    (∀ a : Fin 80, t.byteAt (0x050 + a.val) = p.glyphTable[a]) ∧ t.fault = none ∧ t.params = p) ∧
  State.reset = State.resetWith Config.params

/-- R81: each field of an opcode is the bits the table names, as an unsigned number (R82). -/
def Obligations.OpcodeFieldsAreTheirBits : Prop :=
  ∀ op : Word, (opFamily op).toNat = op.toNat / 4096 ∧ (opX op).val = op.toNat / 256 % 16 ∧
    (opY op).val = op.toNat / 16 % 16 ∧ (opN op).toNat = op.toNat % 16 ∧
    (opNNN op).toNat = op.toNat % 4096 ∧ (opKK op).toNat = op.toNat % 256

/-- R84: one word of each of the 16 families of R83 (the values of nibble0), and of each section file, written out from its
pattern, decodes to the instruction it stands for. -/
def Obligations.SampleWordsDecode : Prop :=
  decodeOpcode 0x00E0 = .instr .cls ∧ decodeOpcode 0x00EE = .instr .ret ∧
  decodeOpcode 0x1345 = .instr (.jp 0x345) ∧ decodeOpcode 0x2345 = .instr (.call 0x345) ∧
  decodeOpcode 0x3142 = .instr (.seImm 1 0x42) ∧ decodeOpcode 0x4142 = .instr (.sneImm 1 0x42) ∧
  decodeOpcode 0x5120 = .instr (.seReg 1 2) ∧ decodeOpcode 0x6A2B = .instr (.ldImm 0xA 0x2B) ∧
  decodeOpcode 0x7201 = .instr (.addImm 2 0x01) ∧ decodeOpcode 0x8124 = .instr (.addReg 1 2) ∧
  decodeOpcode 0x9120 = .instr (.sneReg 1 2) ∧ decodeOpcode 0xA2F0 = .instr (.ldI 0x2F0) ∧
  decodeOpcode 0xB300 = .instr (.jpV0 0x300) ∧ decodeOpcode 0xC30F = .instr (.rnd 3 0x0F) ∧
  decodeOpcode 0xD125 = .instr (.drw 1 2 5) ∧ decodeOpcode 0xE19E = .instr (.skp 1) ∧
  decodeOpcode 0xF30A = .instr (.ldVxK 3) ∧ decodeOpcode 0xF255 = .instr (.ldMemVx 2)

/-- R84: decoding the opcode of an instruction gives the instruction back, for every instruction and every operand. -/
def Obligations.DecodeOfEncodeIsIdentity : Prop :=
  ∀ i, decodeOpcode (encode i) = .instr i ∧ decodeBytes (encodeBytes i) = .instr i

/-- R84, R91: an opcode that decodes to an instruction is that instruction's only opcode. -/
def Obligations.EncodeOfDecodeIsIdentity : Prop :=
  ∀ op i, decodeOpcode op = .instr i → encode i = op

/-- R83, R84: an opcode is an instruction exactly when a row of the opcode map selects it, and no opcode selects two rows. -/
def Obligations.DecodingFollowsOpcodeMap : Prop :=
  ∀ op, ((∃ i, decodeOpcode op = .instr i) ↔ ∃ row ∈ opcodeMap, op &&& row.mask = row.matchBits) ∧
    ∀ row ∈ opcodeMap, ∀ row' ∈ opcodeMap,
      op &&& row.mask = row.matchBits → op &&& row'.mask = row'.matchBits → row = row'

/-- R85, R86, R88, R89 and the table of R90 (its conditions, not its counts): which opcodes are unrecognised. -/
def Obligations.UnrecognizedOpcodesAreTheTables : Prop :=
  ∀ op, (∃ why, decodeOpcode op = .unrecognized why) ↔ UnrecognizedByTable op

/-! ## The cycle -/

/-- R103 to R107, R109: when the bytes at `pc` decode to an instruction, that instruction's meaning, run on the state with the
inputs latched and `pc` past the instruction, answers a next state, and the step of a running CORE is the end of the step
after it: each timer that is not zero loses one, or, when the instruction raised, only the record and the latched inputs
are kept. Both ends are spelled out. -/
def Obligations.StepRunsDecodedInstruction : Prop :=
  ∀ (s : State) (i : Instr), Running s → s.pc.toNat + 2 ≤ 0x1000 →
    decodeBytes [s.byteAt s.pc.toNat, s.byteAt (s.pc.toNat + 1)] = .instr i →
    ∃ t, exec i (s.latch.setPc (s.pc + 2)) = .next t ∧
      (Running t →
        step s = .next { t with dt := if t.dt = 0 then 0 else t.dt - 1, st := if t.st = 0 then 0 else t.st - 1 }) ∧
      (¬ Running t → step s = .next { s.latch with fault := t.fault })

/-- R106: a recognised opcode executes its instruction; an unrecognised one only advances `pc` by 2 and lets the timers count
down, and never faults. -/
def Obligations.UnrecognizedOpcodeOnlyAdvances : Prop :=
  (∀ op i s, decodeOpcode op = .instr i → execOpcode op s = exec i s) ∧
  ∀ (s : State) why, Running s → s.pc.toNat + 2 ≤ 0x1000 → decodeOpcode s.opcodeAtPc = .unrecognized why →
    ∃ t, step s = .next t ∧ t.pc = s.pc + 2 ∧ t.dt.toNat = s.dt.toNat - 1 ∧ t.st.toNat = s.st.toNat - 1 ∧
      KeepsRegs [] s t ∧ t.index = s.index ∧ KeepsMem s t ∧ KeepsStack s t ∧ KeepsDisplay s t ∧ Running t

/-- R103: the opcode fetched is the byte at `pc` above the byte at `pc + 1`, at any alignment; a fetch that reaches 0x1000 raises
MemoryRange with no opcode, `pc` stays, and nothing but the latched inputs changes. -/
def Obligations.FetchReadsBigEndianOrFaults : Prop :=
  (∀ s : State, s.opcodeAtPc.toNat = 256 * (s.byteAt s.pc.toNat).toNat + (s.byteAt (s.pc.toNat + 1)).toNat) ∧
  ∀ s : State, Running s → 0x1000 ≤ s.pc.toNat + 1 →
    ∃ t, step s = .next t ∧ t.fault = some ⟨.memoryRange, s.pc, none, some (max s.pc.toNat 0x1000)⟩ ∧ t.pc = s.pc ∧
      KeepsRegs [] s t ∧ t.index = s.index ∧ KeepsMem s t ∧ KeepsStack s t ∧ KeepsTimers s t ∧ KeepsDisplay s t

/-- R102, R214: while a fault is recorded a step changes nothing. -/
def Obligations.HaltedStepChangesNothing : Prop :=
  ∀ s : State, s.fault ≠ none → step s = .next s ∧ ∀ keys rnd, s.stepWith keys rnd = .next s

/-- R101, R30: a step of a running CORE leaves the key vector it was given in the latch and its random byte beside it; no
instruction mutates either. (That the inputs wait in a list is the model's choice, log entry 1.) -/
def Obligations.StepLatchesItsInputs : Prop :=
  ∀ keys rnd (s : State), Running s →
    ∃ t, s.stepWith keys rnd = .next t ∧ (∀ k : Fin 16, t.key k = keys[k]) ∧ t.rnd = rnd ∧ t.inputs = s.inputs

/-- R107, R111: a step that does not fault takes one off each timer that is not zero, after its instruction: a timer the instruction
writes is counted down from the value written. A step that faults leaves both. -/
def Obligations.TimersCountDownEachStep : Prop :=
  ∀ s t : State, Running s → step s = .next t →
    (¬ Running t → KeepsTimers s t) ∧
    (Running t → (∀ x, decodeOpcode s.opcodeAtPc ≠ .instr (.ldDtVx x)) → t.dt.toNat = s.dt.toNat - 1) ∧
    (Running t → (∀ x, decodeOpcode s.opcodeAtPc ≠ .instr (.ldStVx x)) → t.st.toNat = s.st.toNat - 1) ∧
    (∀ x, Running t → decodeOpcode s.opcodeAtPc = .instr (.ldDtVx x) → t.dt.toNat = (s.reg x).toNat - 1) ∧
    ∀ x, Running t → decodeOpcode s.opcodeAtPc = .instr (.ldStVx x) → t.st.toNat = (s.reg x).toNat - 1

/-- R25: where a step that does not fault leaves `pc`, by the instruction fetched from `pc`. -/
def Obligations.PcAfterStepFollowsTable : Prop :=
  ∀ s t : State, Running s → step s = .next t → Running t →
    (∀ i, decodeOpcode s.opcodeAtPc = .instr i → t.pc = pcAfter s.pc s.latch i) ∧
    (∀ why, decodeOpcode s.opcodeAtPc = .unrecognized why → t.pc = s.pc + 2)

/-- R110: every step answers a next state: no step stops outside the machine, and none fails to return. -/
def Obligations.EveryStepAnswersNext : Prop := ∀ s : State, ∃ t, step s = .next t

/-- R249, R219: over `k` steps that end without a fault, a timer that no instruction of the run writes has lost `k`, and stops at 0. -/
def Obligations.TimersCountSteps : Prop :=
  ∀ k (s t : State), Host.Core.run Sys2Proof.core k s = .next t → Running t →
    ((∀ j < k, ∀ u : State, Host.Core.run Sys2Proof.core j s = .next u → ∀ x,
        decodeOpcode u.opcodeAtPc ≠ .instr (.ldDtVx x)) → t.dt.toNat = s.dt.toNat - k) ∧
    ((∀ j < k, ∀ u : State, Host.Core.run Sys2Proof.core j s = .next u → ∀ x,
        decodeOpcode u.opcodeAtPc ≠ .instr (.ldStVx x)) → t.st.toNat = s.st.toNat - k)

/-- R244: after Reset, whatever the parameters, steps without a Load pass the zero bytes, two at a time, to the end of memory, and
the next step faults in its fetch. -/
def Obligations.StepsWithoutLoadReachMemoryEnd : Prop :=
  ∀ p : Params,
    (∀ k ≤ 1792, ∃ t : State, Host.Core.run Sys2Proof.core k (State.resetWith p) = .next t ∧ Running t ∧
      t.pc.toNat = 0x200 + 2 * k ∧ KeepsRegs [] (State.resetWith p) t ∧ KeepsMem (State.resetWith p) t) ∧
    EndsWell 1792 (State.resetWith p) ∧ EndsBadly 1793 (State.resetWith p) ∧
    ∃ t : State, Host.Core.run Sys2Proof.core 1793 (State.resetWith p) = .next t ∧
      t.fault = some ⟨.memoryRange, 0x1000, none, some 0x1000⟩

/-! ## Faults -/

/-- R211: an instruction on a running CORE raises exactly the fault, with exactly the `info`, that the table gives it, and no other
instruction raises any; the codes are the table's. The row of the fetch is a clause of its own. -/
def Obligations.FaultsAreTheTables : Prop :=
  (∀ i s, Running s → ∃ t, exec i s = .next t ∧ t.fault.map (fun r => (r.cause, r.info)) = expectedFault s i) ∧
  (∀ s : State, Running s → 0x1000 ≤ s.pc.toNat + 1 → ∃ t r, step s = .next t ∧ t.fault = some r ∧
    r.cause = .memoryRange ∧ r.info = some (max s.pc.toNat 0x1000)) ∧
  (∀ op s, Running s → UnrecognizedByTable op → ∃ t, execOpcode op s = .next t ∧ Running t) ∧
  faultCode none = 0 ∧ FaultCause.memoryRange.code = 1 ∧ FaultCause.stackOverflow.code = 2 ∧
  FaultCause.stackUnderflow.code = 3 ∧ FaultCause.keyIndexRange.code = 4 ∧ FaultCause.glyphIndexRange.code = 5

/-- R212, R213 (decision D8): a step that raises leaves every element of state but the keypad latch as it was before the step, with
the record of the cause and `info` the table of R211 gives, the address it fetched from and the opcode it fetched (none
when the fetch itself faulted); the timers are not decremented; and the CORE is halted: the next step changes nothing. -/
def Obligations.FaultEntryIsPrecise : Prop :=
  ∀ s t : State, Running s → step s = .next t → ¬ Running t →
    (∃ r, t.fault = some r ∧ r.pc = s.pc ∧
      (s.pc.toNat + 2 ≤ 0x1000 → r.opcode = some s.opcodeAtPc ∧
        ∃ i, decodeOpcode s.opcodeAtPc = .instr i ∧ expectedFault s i = some (r.cause, r.info)) ∧
      (s.pc.toNat + 2 > 0x1000 → r.opcode = none ∧ r.cause = .memoryRange ∧ r.info = some (max s.pc.toNat 0x1000))) ∧
    t.pc = s.pc ∧ KeepsRegs [] s t ∧ t.index = s.index ∧ KeepsMem s t ∧ KeepsStack s t ∧ KeepsTimers s t ∧
    KeepsDisplay s t ∧ (∀ k : Fin 16, t.key k = s.currentInput.keys[k]) ∧ step t = .next t

/-- R214 (decisions D8, D30): while a fault is recorded a step changes nothing, every other transaction is served too, and none of
them but Reset clears the record. -/
def Obligations.FaultStaysUntilReset : Prop :=
  ∀ s : State, s.fault ≠ none → step s = .next s ∧
    (∀ tr, tr ≠ .reset → ∃ t resp, s.serve tr = .next (t, resp) ∧ t.fault = s.fault) ∧
    ∃ t, s.serve .reset = .next (t, .done) ∧ t.fault = none

/-! ## Invariants -/

/-- Every step keeps memory in its canonical form. That form (a sorted list of the bytes that differ from the reset contents) is
the model's choice, log entry 13; no rule of the spec speaks of it. -/
def Obligations.StepKeepsMemoryCanonical : Prop :=
  ∀ s t : State, MemoryCanonical s → step s = .next t → MemoryCanonical t

/-- R24, R58, R130, R132, R137 (decision D16): every step keeps call-stack entries at most 0x1000 and `pc` at most 0x10FE, so
no program counter wraps. -/
def Obligations.StepKeepsAddressesBounded : Prop :=
  ∀ s t : State, AddressesBounded s → step s = .next t → AddressesBounded t

/-- R212, R213, R214: every step keeps the fault record, if any, the record of the instruction at `pc`, in the shape of its cause. -/
def Obligations.StepKeepsFaultConsistent : Prop :=
  ∀ s t : State, FaultConsistent s → step s = .next t → FaultConsistent t

/-- The three invariants hold after reset, whatever the parameters. The clause on memory rests on the canonical form, which is the
model's choice, log entry 13; the other two rest on the values of R240. -/
def Obligations.ResetMeetsInvariants : Prop :=
  ∀ p : Params, MemoryCanonical (State.resetWith p) ∧ AddressesBounded (State.resetWith p) ∧
    FaultConsistent (State.resetWith p)

/-- R7, R35: the parameters are fixed for the CORE: no step and no transaction changes them. (That a state carries them is the
model's choice, log entry 15.) -/
def Obligations.ParametersNeverChange : Prop :=
  (∀ s t : State, step s = .next t → t.params = s.params) ∧
  ∀ tr (s t : State) resp, s.serve tr = .next (t, resp) → t.params = s.params

/-! ## Display -/

/-- R120 CLS. -/
def Obligations.ClsClearsScreen : Prop :=
  EncodedAs 0x00E0 0xFFFF (fun _ => .cls) ∧
  ∀ s : State, ∃ t, exec .cls s = .next t ∧ (∀ r c, t.pixel r c = false) ∧ t.dirty = true ∧ t.pc = s.pc ∧
    KeepsRegs [] s t ∧ t.index = s.index ∧ KeepsMem s t ∧ KeepsStack s t ∧ KeepsTimers s t ∧ KeepsHost s t

/-- R121, R122, R123 DRW: a pixel a set sprite bit lands on is inverted and every other stays; the flag is 1 when some such pixel was
on before and else 0; the coordinates are those before the flag write; or MemoryRange, with nothing changed. (Bit order
and coordinate order are the spec's decisions D27 and D14.) -/
def Obligations.DrwXorsSprite : Prop :=
  EncodedAs 0xD000 0xF000 (fun op => .drw (opX op) (opY op) (opN op)) ∧
  (∀ (x y : Reg) (n : Nibble) (s : State), n = 0 ∨ s.index.toNat + n.toNat ≤ 0x1000 →
    ∃ t, exec (.drw x y n) s = .next t ∧
      (∀ r c, SpriteCovers x y n s r c → t.pixel r c = !s.pixel r c) ∧
      (∀ r c, ¬ SpriteCovers x y n s r c → t.pixel r c = s.pixel r c) ∧
      ((∃ r c, SpriteCovers x y n s r c ∧ s.pixel r c = true) → t.reg regF = 1) ∧
      ((¬ ∃ r c, SpriteCovers x y n s r c ∧ s.pixel r c = true) → t.reg regF = 0) ∧
      t.dirty = true ∧ t.pc = s.pc ∧ KeepsRegs [regF] s t ∧ t.index = s.index ∧ KeepsMem s t ∧ KeepsStack s t ∧
      KeepsTimers s t ∧ KeepsHost s t) ∧
  ∀ (x y : Reg) (n : Nibble) (s : State), n ≠ 0 → s.index.toNat + n.toNat > 0x1000 →
    ∃ t, exec (.drw x y n) s = .next t ∧
      FaultsWith (.drw x y n) .memoryRange (some (max s.index.toNat 0x1000)) s t

/-- R121, corner cases: drawing the same sprite twice at the same place restores the framebuffer, and the second draw reports a
collision exactly when some set bit of the sprite fell on a pixel that was off before the first. With `X` or `Y` = 0xF the
flag the first draw writes is a coordinate of the second, so the place is not the same: those forms are left to
DrwXorsSprite. -/
def Obligations.DrawingTwiceRestores : Prop :=
  ∀ (x y : Reg) (n : Nibble) (s : State), x ≠ regF → y ≠ regF → n = 0 ∨ s.index.toNat + n.toNat ≤ 0x1000 →
    ∃ t u, exec (.drw x y n) s = .next t ∧ exec (.drw x y n) t = .next u ∧
      (∀ r c, u.pixel r c = s.pixel r c) ∧
      (u.reg regF = 1 ↔ ∃ r c, SpriteCovers x y n s r c ∧ s.pixel r c = false)

/-! ## Control transfer -/

/-- R130 RET: `SP` one lower and `pc` the entry there, or StackUnderflow when `SP = 0` (decision D5). -/
def Obligations.RetPopsReturnAddress : Prop :=
  EncodedAs 0x00EE 0xFFFF (fun _ => .ret) ∧
  (∀ (s : State) (j : Fin 16), s.sp.val = j.val + 1 → ∃ t, exec .ret s = .next t ∧ t.pc = s.stack[j] ∧ t.sp.val = j.val ∧
    (∀ k : Fin 16, t.stack[k] = s.stack[k]) ∧ KeepsAllButControl s t) ∧
  ∀ s : State, s.sp = 0 → ∃ t, exec .ret s = .next t ∧ FaultsWith .ret .stackUnderflow none s t

/-- R131 JP and R137 JP V0: `pc` is exactly NNN, or NNN plus register 0. -/
def Obligations.JumpsSetPc : Prop :=
  EncodedAs 0x1000 0xF000 (fun op => .jp (opNNN op)) ∧ EncodedAs 0xB000 0xF000 (fun op => .jpV0 (opNNN op)) ∧
  (∀ nnn (s : State), ∃ t, exec (.jp nnn) s = .next t ∧ t.pc.toNat = nnn.toNat ∧ KeepsStack s t ∧ KeepsAllButControl s t) ∧
  ∀ nnn (s : State), ∃ t, exec (.jpV0 nnn) s = .next t ∧ t.pc.toNat = nnn.toNat + (s.reg 0).toNat ∧ KeepsStack s t ∧
    KeepsAllButControl s t

/-- R132 CALL: the address after the call goes to `stack[SP]`, `SP` is one higher, `pc` is NNN; or StackOverflow when `SP = 16`
(decision D4). -/
def Obligations.CallPushesReturnAddress : Prop :=
  EncodedAs 0x2000 0xF000 (fun op => .call (opNNN op)) ∧
  (∀ nnn (s : State) (j : Fin 16), s.sp.val = j.val → ∃ t, exec (.call nnn) s = .next t ∧ t.pc.toNat = nnn.toNat ∧
    t.sp.val = j.val + 1 ∧ t.stack[j] = s.pc ∧ (∀ k : Fin 16, k ≠ j → t.stack[k] = s.stack[k]) ∧
    KeepsAllButControl s t) ∧
  ∀ nnn (s : State), s.sp = 16 → ∃ t, exec (.call nnn) s = .next t ∧ FaultsWith (.call nnn) .stackOverflow none s t

/-- R130, R132 (C13): a call and then a return restore `pc` to the address after the call and `SP` to what it was; the entry the
call wrote stays (R130: a pop does not clear it), and every other entry and everything else is as before. -/
def Obligations.CallThenReturnRestores : Prop :=
  ∀ nnn (s : State), s.sp.val < 16 → ∃ t u, exec (.call nnn) s = .next t ∧ exec .ret t = .next u ∧ u.pc = s.pc ∧
    u.sp = s.sp ∧ (∀ k : Fin 16, k.val ≠ s.sp.val → u.stack[k] = s.stack[k]) ∧
    (∀ k : Fin 16, k.val = s.sp.val → u.stack[k] = s.pc) ∧ KeepsAllButControl s u

/-- R133 SE VX, KK and R134 SNE VX, KK. -/
def Obligations.ImmediateSkips : Prop :=
  EncodedAs 0x3000 0xF000 (fun op => .seImm (opX op) (opKK op)) ∧
  EncodedAs 0x4000 0xF000 (fun op => .sneImm (opX op) (opKK op)) ∧
  ∀ x kk (s : State),
    (∃ t, exec (.seImm x kk) s = .next t ∧ t.pc = (if (s.reg x).toNat = kk.toNat then s.pc + 2 else s.pc) ∧
      KeepsStack s t ∧ KeepsAllButControl s t) ∧
    ∃ t, exec (.sneImm x kk) s = .next t ∧ t.pc = (if (s.reg x).toNat = kk.toNat then s.pc else s.pc + 2) ∧
      KeepsStack s t ∧ KeepsAllButControl s t

/-- R135 SE VX, VY and R136 SNE VX, VY. -/
def Obligations.RegisterSkips : Prop :=
  EncodedAs 0x5000 0xF00F (fun op => .seReg (opX op) (opY op)) ∧
  EncodedAs 0x9000 0xF00F (fun op => .sneReg (opX op) (opY op)) ∧
  ∀ x y (s : State),
    (∃ t, exec (.seReg x y) s = .next t ∧ t.pc = (if (s.reg x).toNat = (s.reg y).toNat then s.pc + 2 else s.pc) ∧
      KeepsStack s t ∧ KeepsAllButControl s t) ∧
    ∃ t, exec (.sneReg x y) s = .next t ∧ t.pc = (if (s.reg x).toNat = (s.reg y).toNat then s.pc else s.pc + 2) ∧
      KeepsStack s t ∧ KeepsAllButControl s t

/-! ## ALU -/

/-- R150 LD VX, KK and R152 LD VX, VY; register 0xF is written like any other. -/
def Obligations.LoadsCopyToRegister : Prop :=
  EncodedAs 0x6000 0xF000 (fun op => .ldImm (opX op) (opKK op)) ∧
  EncodedAs 0x8000 0xF00F (fun op => .ldReg (opX op) (opY op)) ∧
  (∀ x kk (s : State), ∃ t, exec (.ldImm x kk) s = .next t ∧ t.reg x = kk ∧ KeepsRegs [x] s t ∧ t.pc = s.pc ∧
    KeepsAllButRegs s t) ∧
  ∀ x y (s : State), ∃ t, exec (.ldReg x y) s = .next t ∧ t.reg x = s.reg y ∧ KeepsRegs [x] s t ∧ t.pc = s.pc ∧
    KeepsAllButRegs s t

/-- R151 ADD VX, KK: the sum mod 256 and no flag (register 0xF stays unless it is the destination). -/
def Obligations.AddImmediateWraps : Prop :=
  EncodedAs 0x7000 0xF000 (fun op => .addImm (opX op) (opKK op)) ∧
  ∀ x kk (s : State), ∃ t, exec (.addImm x kk) s = .next t ∧
    (t.reg x).toNat = ((s.reg x).toNat + kk.toNat) % 256 ∧ KeepsRegs [x] s t ∧ t.pc = s.pc ∧ KeepsAllButRegs s t

/-- R153 OR, R154 AND, R155 XOR: bit by bit, and no flag. -/
def Obligations.LogicCombinesBits : Prop :=
  EncodedAs 0x8001 0xF00F (fun op => .orReg (opX op) (opY op)) ∧
  EncodedAs 0x8002 0xF00F (fun op => .andReg (opX op) (opY op)) ∧
  EncodedAs 0x8003 0xF00F (fun op => .xorReg (opX op) (opY op)) ∧
  ∀ x y (s : State),
    (∃ t, exec (.orReg x y) s = .next t ∧
      (∀ b < 8, (t.reg x).getLsbD b = ((s.reg x).getLsbD b || (s.reg y).getLsbD b)) ∧ KeepsRegs [x] s t ∧
      t.pc = s.pc ∧ KeepsAllButRegs s t) ∧
    (∃ t, exec (.andReg x y) s = .next t ∧
      (∀ b < 8, (t.reg x).getLsbD b = ((s.reg x).getLsbD b && (s.reg y).getLsbD b)) ∧ KeepsRegs [x] s t ∧
      t.pc = s.pc ∧ KeepsAllButRegs s t) ∧
    ∃ t, exec (.xorReg x y) s = .next t ∧
      (∀ b < 8, (t.reg x).getLsbD b = ((s.reg x).getLsbD b ^^ (s.reg y).getLsbD b)) ∧ KeepsRegs [x] s t ∧
      t.pc = s.pc ∧ KeepsAllButRegs s t

/-- R156 ADD VX, VY: the low 8 bits of the sum, and the carry written last, so it is what register 0xF holds even when it is the
destination. -/
def Obligations.AddRegistersSetsCarry : Prop :=
  EncodedAs 0x8004 0xF00F (fun op => .addReg (opX op) (opY op)) ∧
  ∀ x y (s : State), ∃ t, exec (.addReg x y) s = .next t ∧
    (x ≠ regF → (t.reg x).toNat = ((s.reg x).toNat + (s.reg y).toNat) % 256) ∧
    t.reg regF = (if (s.reg x).toNat + (s.reg y).toNat > 255 then 1 else 0) ∧
    KeepsRegs [x, regF] s t ∧ t.pc = s.pc ∧ KeepsAllButRegs s t

/-- R157 SUB and R159 SUBN: the difference mod 256, and the flag 1 for no borrow, written last (decision D13). -/
def Obligations.SubtractionsSetNoBorrow : Prop :=
  EncodedAs 0x8005 0xF00F (fun op => .subReg (opX op) (opY op)) ∧
  EncodedAs 0x8007 0xF00F (fun op => .subnReg (opX op) (opY op)) ∧
  ∀ x y (s : State),
    (∃ t, exec (.subReg x y) s = .next t ∧
      (x ≠ regF → (t.reg x).toNat = ((s.reg x).toNat + 256 - (s.reg y).toNat) % 256) ∧
      t.reg regF = (if (s.reg x).toNat ≥ (s.reg y).toNat then 1 else 0) ∧
      KeepsRegs [x, regF] s t ∧ t.pc = s.pc ∧ KeepsAllButRegs s t) ∧
    ∃ t, exec (.subnReg x y) s = .next t ∧
      (x ≠ regF → (t.reg x).toNat = ((s.reg y).toNat + 256 - (s.reg x).toNat) % 256) ∧
      t.reg regF = (if (s.reg y).toNat ≥ (s.reg x).toNat then 1 else 0) ∧
      KeepsRegs [x, regF] s t ∧ t.pc = s.pc ∧ KeepsAllButRegs s t

/-- R158 SHR: half of `x[X]`, bit 0 in the flag, written first, so register 0xF as the destination ends at 0; `Y` does not
matter. -/
def Obligations.ShiftRightFlagsLowBit : Prop :=
  EncodedAs 0x8006 0xF00F (fun op => .shr (opX op) (opY op)) ∧
  ∀ x y (s : State), ∃ t, exec (.shr x y) s = .next t ∧
    (x ≠ regF → (t.reg x).toNat = (s.reg x).toNat / 2 ∧ (t.reg regF).toNat = (s.reg x).toNat % 2) ∧
    (x = regF → t.reg regF = 0) ∧ (∀ y', exec (.shr x y') s = .next t) ∧
    KeepsRegs [x, regF] s t ∧ t.pc = s.pc ∧ KeepsAllButRegs s t

/-- R160 SHL: double `x[X]` mod 256, the old high bit in the flag, as 0x80 or 0 when SHL_FLAG_MODE is raw (the spec's value,
decision D9) and as 1 or 0 when it is normalized. The flag is written first, so register 0xF as the destination ends at 0
under raw and at 2 or 0 under normalized; `Y` does not matter. -/
def Obligations.ShiftLeftFlagsHighBit : Prop :=
  EncodedAs 0x800E 0xF00F (fun op => .shl (opX op) (opY op)) ∧
  ∀ x y (s : State), ∃ t, exec (.shl x y) s = .next t ∧
    (x ≠ regF → (t.reg x).toNat = 2 * (s.reg x).toNat % 256) ∧
    (x ≠ regF → s.params.shlFlagMode = .raw →
      (t.reg regF).toNat = if (s.reg x).toNat ≥ 128 then 0x80 else 0) ∧
    (x ≠ regF → s.params.shlFlagMode = .normalized →
      (t.reg regF).toNat = if (s.reg x).toNat ≥ 128 then 1 else 0) ∧
    (x = regF → s.params.shlFlagMode = .raw → t.reg regF = 0) ∧
    (x = regF → s.params.shlFlagMode = .normalized →
      (t.reg regF).toNat = if (s.reg x).toNat ≥ 128 then 2 else 0) ∧
    (∀ y', exec (.shl x y') s = .next t) ∧ KeepsRegs [x, regF] s t ∧ t.pc = s.pc ∧ KeepsAllButRegs s t

/-- R161 RND: the step's random byte and the mask, for whatever byte the step was given. -/
def Obligations.RndMasksTheStepsByte : Prop :=
  EncodedAs 0xC000 0xF000 (fun op => .rnd (opX op) (opKK op)) ∧
  ∀ x kk (s : State), ∃ t, exec (.rnd x kk) s = .next t ∧
    (∀ b < 8, (t.reg x).getLsbD b = (s.rnd.getLsbD b && kk.getLsbD b)) ∧ KeepsRegs [x] s t ∧ t.pc = s.pc ∧
    KeepsAllButRegs s t

/-! ## Keys and timers -/

/-- R180 SKP and R181 SKNP: a skip by the latched key `x[X]`, or KeyIndexRange above 15 (decision D6). -/
def Obligations.KeySkipsReadLatch : Prop :=
  EncodedAs 0xE09E 0xF0FF (fun op => .skp (opX op)) ∧ EncodedAs 0xE0A1 0xF0FF (fun op => .sknp (opX op)) ∧
  (∀ x (s : State) (k : Fin 16), (s.reg x).toNat = k.val →
    (∃ t, exec (.skp x) s = .next t ∧ t.pc = (if s.key k then s.pc + 2 else s.pc) ∧ KeepsStack s t ∧
      KeepsAllButControl s t) ∧
    ∃ t, exec (.sknp x) s = .next t ∧ t.pc = (if s.key k then s.pc else s.pc + 2) ∧ KeepsStack s t ∧
      KeepsAllButControl s t) ∧
  ∀ x (s : State), (s.reg x).toNat > 15 →
    (∃ t, exec (.skp x) s = .next t ∧ FaultsWith (.skp x) .keyIndexRange (some (s.reg x).toNat) s t) ∧
    ∃ t, exec (.sknp x) s = .next t ∧ FaultsWith (.sknp x) .keyIndexRange (some (s.reg x).toNat) s t

/-- R182 LD VX, DT; R183 LD DT, VX; R184 LD ST, VX: what the instruction itself does, before the step's decrement (which
TimersCountDownEachStep states). -/
def Obligations.TimerTransfers : Prop :=
  EncodedAs 0xF007 0xF0FF (fun op => .ldVxDt (opX op)) ∧ EncodedAs 0xF015 0xF0FF (fun op => .ldDtVx (opX op)) ∧
  EncodedAs 0xF018 0xF0FF (fun op => .ldStVx (opX op)) ∧
  ∀ x (s : State),
    (∃ t, exec (.ldVxDt x) s = .next t ∧ t.reg x = s.dt ∧ KeepsRegs [x] s t ∧ t.pc = s.pc ∧ KeepsAllButRegs s t) ∧
    (∃ t, exec (.ldDtVx x) s = .next t ∧ t.dt = s.reg x ∧ t.st = s.st ∧ KeepsRegs [] s t ∧ t.pc = s.pc ∧
      t.index = s.index ∧ KeepsMem s t ∧ KeepsStack s t ∧ KeepsDisplay s t ∧ KeepsHost s t) ∧
    ∃ t, exec (.ldStVx x) s = .next t ∧ t.st = s.reg x ∧ t.dt = s.dt ∧ KeepsRegs [] s t ∧ t.pc = s.pc ∧
      t.index = s.index ∧ KeepsMem s t ∧ KeepsStack s t ∧ KeepsDisplay s t ∧ KeepsHost s t

/-- R185 LD VX, K: the least pressed key, or `pc` back on the instruction when none is pressed. -/
def Obligations.KeyWaitTakesLeastKey : Prop :=
  EncodedAs 0xF00A 0xF0FF (fun op => .ldVxK (opX op)) ∧
  (∀ x (s : State) (k : Fin 16), s.key k = true → (∀ j < k, s.key j = false) →
    ∃ t, exec (.ldVxK x) s = .next t ∧ (t.reg x).toNat = k.val ∧ KeepsRegs [x] s t ∧ t.pc = s.pc ∧
      KeepsAllButRegs s t) ∧
  ∀ x (s : State), (∀ k, s.key k = false) →
    ∃ t, exec (.ldVxK x) s = .next t ∧ t.pc = s.pc - 2 ∧ KeepsRegs [] s t ∧ KeepsAllButRegs s t

/-! ## Index register and memory blocks -/

/-- R190 LD I, NNN and R191 ADD I, VX (mod 2^16, decision D18), with no flag. -/
def Obligations.IndexLoadsAndAdds : Prop :=
  EncodedAs 0xA000 0xF000 (fun op => .ldI (opNNN op)) ∧ EncodedAs 0xF01E 0xF0FF (fun op => .addI (opX op)) ∧
  (∀ nnn (s : State), ∃ t, exec (.ldI nnn) s = .next t ∧ t.index.toNat = nnn.toNat ∧ KeepsRegs [] s t ∧ t.pc = s.pc ∧
    KeepsMem s t ∧ KeepsStack s t ∧ KeepsTimers s t ∧ KeepsDisplay s t ∧ KeepsHost s t) ∧
  ∀ x (s : State), ∃ t, exec (.addI x) s = .next t ∧ t.index.toNat = (s.index.toNat + (s.reg x).toNat) % 65536 ∧
    KeepsRegs [] s t ∧ t.pc = s.pc ∧ KeepsMem s t ∧ KeepsStack s t ∧ KeepsTimers s t ∧ KeepsDisplay s t ∧ KeepsHost s t

/-- R192 LD F, VX: 0x050 + 5 * x[X], or GlyphIndexRange above 15 (decision D7). -/
def Obligations.GlyphAddressIsFiveTimesDigit : Prop :=
  EncodedAs 0xF029 0xF0FF (fun op => .ldF (opX op)) ∧
  (∀ x (s : State), (s.reg x).toNat ≤ 15 → ∃ t, exec (.ldF x) s = .next t ∧
    t.index.toNat = 0x050 + 5 * (s.reg x).toNat ∧ KeepsRegs [] s t ∧ t.pc = s.pc ∧ KeepsMem s t ∧ KeepsStack s t ∧
    KeepsTimers s t ∧ KeepsDisplay s t ∧ KeepsHost s t) ∧
  ∀ x (s : State), (s.reg x).toNat > 15 →
    ∃ t, exec (.ldF x) s = .next t ∧ FaultsWith (.ldF x) .glyphIndexRange (some (s.reg x).toNat) s t

/-- R193 LD B, VX: hundreds, tens and ones at I, I+1, I+2 and no other byte; or MemoryRange before any write. -/
def Obligations.BcdStoresThreeDigits : Prop :=
  EncodedAs 0xF033 0xF0FF (fun op => .ldB (opX op)) ∧
  (∀ x (s : State), s.index.toNat + 3 ≤ 0x1000 → ∃ t, exec (.ldB x) s = .next t ∧
    (t.byteAt s.index.toNat).toNat = (s.reg x).toNat / 100 ∧
    (t.byteAt (s.index.toNat + 1)).toNat = (s.reg x).toNat / 10 % 10 ∧
    (t.byteAt (s.index.toNat + 2)).toNat = (s.reg x).toNat % 10 ∧
    KeepsMemOutside s.index.toNat 3 s t ∧ KeepsRegs [] s t ∧ t.index = s.index ∧ t.pc = s.pc ∧ KeepsStack s t ∧
    KeepsTimers s t ∧ KeepsDisplay s t ∧ KeepsHost s t) ∧
  ∀ x (s : State), s.index.toNat + 3 > 0x1000 →
    ∃ t, exec (.ldB x) s = .next t ∧ FaultsWith (.ldB x) .memoryRange (some (max s.index.toNat 0x1000)) s t

/-- R194 LD [I], VX: registers 0 to X at I up and no other byte, `I` unchanged; or MemoryRange before any write. -/
def Obligations.RegisterDumpStoresBlock : Prop :=
  EncodedAs 0xF055 0xF0FF (fun op => .ldMemVx (opX op)) ∧
  (∀ x (s : State), s.index.toNat + x.val + 1 ≤ 0x1000 → ∃ t, exec (.ldMemVx x) s = .next t ∧
    (∀ r ≤ x, t.byteAt (s.index.toNat + r.val) = s.reg r) ∧
    KeepsMemOutside s.index.toNat (x.val + 1) s t ∧ KeepsRegs [] s t ∧ t.index = s.index ∧ t.pc = s.pc ∧
    KeepsStack s t ∧ KeepsTimers s t ∧ KeepsDisplay s t ∧ KeepsHost s t) ∧
  ∀ x (s : State), s.index.toNat + x.val + 1 > 0x1000 →
    ∃ t, exec (.ldMemVx x) s = .next t ∧ FaultsWith (.ldMemVx x) .memoryRange (some (max s.index.toNat 0x1000)) s t

/-- R195 LD VX, [I]: the bytes at I up to registers 0 to X, the others and `I` unchanged; or MemoryRange before any write. -/
def Obligations.RegisterLoadReadsBlock : Prop :=
  EncodedAs 0xF065 0xF0FF (fun op => .ldVxMem (opX op)) ∧
  (∀ x (s : State), s.index.toNat + x.val + 1 ≤ 0x1000 → ∃ t, exec (.ldVxMem x) s = .next t ∧
    (∀ r ≤ x, t.reg r = s.byteAt (s.index.toNat + r.val)) ∧ (∀ r > x, t.reg r = s.reg r) ∧ t.pc = s.pc ∧
    KeepsAllButRegs s t) ∧
  ∀ x (s : State), s.index.toNat + x.val + 1 > 0x1000 →
    ∃ t, exec (.ldVxMem x) s = .next t ∧ FaultsWith (.ldVxMem x) .memoryRange (some (max s.index.toNat 0x1000)) s t

/-- R62, R246: bytes a register dump stores at the next instruction's address are the opcode the next step fetches. -/
def Obligations.StoredBytesAreFetched : Prop :=
  ∀ x (s : State), 1 ≤ x.val → s.index.toNat + x.val + 1 ≤ 0x1000 → s.pc = s.index →
    ∃ t, exec (.ldMemVx x) s = .next t ∧
      t.opcodeAtPc.toNat = 256 * (s.reg 0).toNat + (s.reg 1).toNat

/-! ## The whole machine -/

/-- R21, R22, R23: an instruction writes only the general registers the rules name for it. -/
def Obligations.OnlyDestinationRegistersChange : Prop :=
  ∀ i (s t : State), exec i s = .next t → KeepsRegs (destRegs i) s t

/-- R26, R27, R28, R29, R31, R32, R51: `I`, the call stack, the timers, the display and memory change only by the instructions
that the rules name as their writers. -/
def Obligations.OnlyNamedWritersChangeState : Prop :=
  ∀ i (s t : State), exec i s = .next t →
    (¬ writesIndex i → t.index = s.index) ∧
    (i ≠ .ret → (∀ nnn, i ≠ .call nnn) → t.sp = s.sp) ∧
    ((∀ nnn, i ≠ .call nnn) → ∀ j : Fin 16, t.stack[j] = s.stack[j]) ∧
    ((∀ x, i ≠ .ldDtVx x) → t.dt = s.dt) ∧ ((∀ x, i ≠ .ldStVx x) → t.st = s.st) ∧
    (¬ writesDisplay i → KeepsDisplay s t) ∧ (¬ writesMemory i → KeepsMem s t) ∧ ∀ k, t.key k = s.key k

/-- R29, R32, R36: no instruction reads the sound timer or the dirty flag: two runs of a step from states that differ in them only
end in states that differ in them only. -/
def Obligations.SoundTimerAndDirtyAreUnread : Prop :=
  ∀ (s t : State) v b, step s = .next t →
    ∃ u, step { s with st := v, dirty := b } = .next u ∧ { u with st := t.st, dirty := t.dirty } = t

/-- R101: no instruction but CXKK reads the step's random byte. -/
def Obligations.OnlyRndReadsRandomByte : Prop :=
  ∀ i (s t : State) v, (∀ x kk, i ≠ .rnd x kk) → exec i s = .next t →
    exec i { s with rnd := v } = .next { t with rnd := v }

/-- R7, R160: no instruction but 8XYE depends on SHL_FLAG_MODE. -/
def Obligations.OnlyShlReadsFlagMode : Prop :=
  ∀ i (s t : State) mode, (∀ x y, i ≠ .shl x y) → exec i s = .next t →
    exec i { s with params := ⟨s.params.glyphTable, mode⟩ } = .next { t with params := ⟨t.params.glyphTable, mode⟩ }

/-- R28, R36: a call-stack entry at or above `SP` is never read: two runs of a step from states that differ in it only end in states
that differ at most in it, and not in it either once it is an active entry. So the two runs differ at most in an entry at
or above `SP` again, step after step. -/
def Obligations.StackAboveSpIsUnread : Prop :=
  ∀ (s t : State) (j : Fin 16) w, s.sp.val ≤ j.val → step s = .next t →
    ∃ u, step { s with stack := s.stack.set j w } = .next u ∧ { u with stack := t.stack } = t ∧
      (∀ k : Fin 16, k ≠ j → u.stack[k] = t.stack[k]) ∧ (j.val < t.sp.val → u.stack[j] = t.stack[j])

/-! ## Host transactions -/

/-- R226 Load: at most 3584 bytes at 0x200 up, the excess discarded, and nothing else changes, a fault record included. -/
def Obligations.LoadCopiesTruncated : Prop :=
  ∀ (bytes : List Byte) (s : State), ∃ t, s.serve (.load bytes) = .next (t, .done) ∧
    (∀ (i : Nat) (h : i < bytes.length), i < 3584 → t.byteAt (0x200 + i) = bytes[i]) ∧
    KeepsMemOutside 0x200 (min bytes.length 3584) s t ∧ KeepsRegs [] s t ∧ t.pc = s.pc ∧ t.index = s.index ∧
    KeepsStack s t ∧ KeepsTimers s t ∧ KeepsDisplay s t ∧ KeepsHost s t

/-- R227 Snapshot, R228 TakeDirty, R230 ReadFault: what each returns, and that only TakeDirty changes anything, the dirty flag. -/
def Obligations.HostReadsReturnState : Prop :=
  ∀ s : State,
    (∃ fb, s.serve .snapshot = .next (s, .frame fb) ∧ ∀ (r : Fin 32) (c : Fin 64), fb[r][c] = s.pixel r c) ∧
    s.serve .readFault = .next (s, .record s.fault) ∧
    ∃ t, s.serve .takeDirty = .next (t, .wasDirty s.dirty) ∧ t = { s with dirty := false } ∧
      t.serve .takeDirty = .next (t, .wasDirty false)

/-- R242, R214: Reset is served in every state, before the first Reset too, and nothing of the old state survives it; no other
transaction is served before the first Reset. The parameters of the CORE stay. (That the driver's inputs go on over a Reset
is the model's choice, log entry 12.) -/
def Obligations.ResetStartsAnew : Prop :=
  (∀ s : State, ∃ t, transact .reset (.inr s) = .next (t, .done) ∧
    { t with inputs := State.reset.inputs, tick := State.reset.tick } = State.resetWith s.params) ∧
  (∀ p, transact .reset (.inl p) = .next (State.resetWith p, .done)) ∧
  ∀ tr p, tr ≠ .reset → transact tr (.inl p) = .refused .beforeReset
end

