-- ==== Sys2Proof/Laws/Decode.lean ====
section
/-! SUPPORT. The fields of an encoded instruction, and the fields of an opcode that a mask of the opcode map fixes. -/

namespace Sys2Proof

theorem regBits_toNat (r : Reg) : (regBits r).toNat = r.val := by
  simp only [regBits, BitVec.toNat_ofNat]; exact Nat.mod_eq_of_lt r.isLt

/-! ## The value of an encoded instruction -/

theorem append_toNat {m n : Nat} (a : BitVec m) (b : BitVec n) : (a ++ b).toNat = a.toNat * 2 ^ n + b.toNat := by
  rw [BitVec.toNat_append, ← Nat.shiftLeft_add_eq_or_of_lt b.isLt, Nat.shiftLeft_eq]

theorem encodeXKK_toNat (f : BitVec 4) (x : Reg) (kk : Byte) :
    (encodeXKK f x kk).toNat = f.toNat * 4096 + x.val * 256 + kk.toNat := by
  simp only [encodeXKK, append_toNat, regBits_toNat]; omega

theorem encodeNNN_toNat (f : BitVec 4) (nnn : Addr12) :
    (encodeNNN f nnn).toNat = f.toNat * 4096 + nnn.toNat := by
  simp only [encodeNNN, append_toNat]; omega

theorem encodeXYN_toNat (f : BitVec 4) (x y : Reg) (n : Nibble) :
    (encodeXYN f x y n).toNat = f.toNat * 4096 + x.val * 256 + y.val * 16 + n.toNat := by
  simp only [encodeXYN, append_toNat, regBits_toNat]; omega

/-! ## The value of a field -/

theorem opFamily_toNat (op : Word) : (opFamily op).toNat = op.toNat / 4096 := by
  have := op.isLt
  simp only [opFamily, BitVec.extractLsb'_toNat, Nat.shiftRight_eq_div_pow]; omega

theorem opX_val (op : Word) : (opX op).val = op.toNat / 256 % 16 := by
  simp only [opX, BitVec.extractLsb'_toNat, Nat.shiftRight_eq_div_pow]

theorem opY_val (op : Word) : (opY op).val = op.toNat / 16 % 16 := by
  simp only [opY, BitVec.extractLsb'_toNat, Nat.shiftRight_eq_div_pow]

theorem opN_toNat (op : Word) : (opN op).toNat = op.toNat % 16 := by
  simp only [opN, BitVec.extractLsb'_toNat, Nat.shiftRight_eq_div_pow]; omega

theorem opNNN_toNat (op : Word) : (opNNN op).toNat = op.toNat % 4096 := by
  simp only [opNNN, BitVec.extractLsb'_toNat, Nat.shiftRight_eq_div_pow]; omega

theorem opKK_toNat (op : Word) : (opKK op).toNat = op.toNat % 256 := by
  simp only [opKK, BitVec.extractLsb'_toNat, Nat.shiftRight_eq_div_pow]; omega

/-! ## The fields of an encoded instruction -/

@[simp] theorem opFamily_encodeXKK (f : BitVec 4) (x : Reg) (kk : Byte) : opFamily (encodeXKK f x kk) = f := by
  apply BitVec.eq_of_toNat_eq; rw [opFamily_toNat, encodeXKK_toNat]; omega

@[simp] theorem opX_encodeXKK (f : BitVec 4) (x : Reg) (kk : Byte) : opX (encodeXKK f x kk) = x := by
  apply Fin.ext; rw [opX_val, encodeXKK_toNat]; omega

@[simp] theorem opKK_encodeXKK (f : BitVec 4) (x : Reg) (kk : Byte) : opKK (encodeXKK f x kk) = kk := by
  apply BitVec.eq_of_toNat_eq; rw [opKK_toNat, encodeXKK_toNat]; omega

@[simp] theorem opFamily_encodeXYN (f : BitVec 4) (x y : Reg) (n : Nibble) : opFamily (encodeXYN f x y n) = f := by
  apply BitVec.eq_of_toNat_eq; rw [opFamily_toNat, encodeXYN_toNat]; omega

@[simp] theorem opX_encodeXYN (f : BitVec 4) (x y : Reg) (n : Nibble) : opX (encodeXYN f x y n) = x := by
  apply Fin.ext; rw [opX_val, encodeXYN_toNat]; omega

@[simp] theorem opY_encodeXYN (f : BitVec 4) (x y : Reg) (n : Nibble) : opY (encodeXYN f x y n) = y := by
  apply Fin.ext; rw [opY_val, encodeXYN_toNat]; omega

@[simp] theorem opN_encodeXYN (f : BitVec 4) (x y : Reg) (n : Nibble) : opN (encodeXYN f x y n) = n := by
  apply BitVec.eq_of_toNat_eq; rw [opN_toNat, encodeXYN_toNat]; omega

@[simp] theorem opFamily_encodeNNN (f : BitVec 4) (nnn : Addr12) : opFamily (encodeNNN f nnn) = f := by
  apply BitVec.eq_of_toNat_eq; rw [opFamily_toNat, encodeNNN_toNat]; omega

@[simp] theorem opNNN_encodeNNN (f : BitVec 4) (nnn : Addr12) : opNNN (encodeNNN f nnn) = nnn := by
  apply BitVec.eq_of_toNat_eq; rw [opNNN_toNat, encodeNNN_toNat]; omega

/-! ## What a mask fixes -/

/-- The mask 0xF000 fixes nibble0. -/
theorem mask_family (op : Word) : op &&& 0xF000#16 = opFamily op ++ (0 : BitVec 12) := by
  simp only [opFamily]
  apply BitVec.eq_of_getLsbD_eq
  intro i hi
  rw [BitVec.getLsbD_and, BitVec.getLsbD_append]
  interval_cases i <;> simp

/-- The mask 0xF00F fixes nibble0 and nibble3. -/
theorem mask_family_n (op : Word) : op &&& 0xF00F#16 = opFamily op ++ ((0 : BitVec 8) ++ opN op) := by
  simp only [opFamily, opN]
  apply BitVec.eq_of_getLsbD_eq
  intro i hi
  rw [BitVec.getLsbD_and, BitVec.getLsbD_append, BitVec.getLsbD_append]
  interval_cases i <;> simp

/-- The mask 0xF0FF fixes nibble0 and the low byte. -/
theorem mask_family_kk (op : Word) : op &&& 0xF0FF#16 = opFamily op ++ ((0 : BitVec 4) ++ opKK op) := by
  simp only [opFamily, opKK]
  apply BitVec.eq_of_getLsbD_eq
  intro i hi
  rw [BitVec.getLsbD_and, BitVec.getLsbD_append, BitVec.getLsbD_append]
  interval_cases i <;> simp

end Sys2Proof
end

