-- ==== Sys2Proof/Laws/Encoding.lean ====
section
/-! SUPPORT. How a row of the opcode map fixes the fields of an opcode: to show `EncodedAs` it is enough to decode every opcode
with the row's family, nibble3 or low byte. -/

namespace Sys2Proof.Safety

/-- A row with mask 0xF000 fixes the family. -/
theorem encodedAs_family (f : BitVec 4) {m : Word} (hm : m = f ++ (0 : BitVec 12)) {b : Word → Instr}
    (h : ∀ op, opFamily op = f → decodeOpcode op = .instr (b op)) : EncodedAs m 0xF000 b := by
  intro op ho
  change op &&& 0xF000#16 = m at ho
  rw [mask_family, hm] at ho
  have := congrArg BitVec.toNat ho
  simp only [append_toNat] at this
  exact h op (BitVec.eq_of_toNat_eq (by omega))

/-- A row with mask 0xF00F fixes the family and nibble3. -/
theorem encodedAs_family_n (f n : BitVec 4) {m : Word} (hm : m = f ++ ((0 : BitVec 8) ++ n)) {b : Word → Instr}
    (h : ∀ op, opFamily op = f → opN op = n → decodeOpcode op = .instr (b op)) : EncodedAs m 0xF00F b := by
  intro op ho
  change op &&& 0xF00F#16 = m at ho
  rw [mask_family_n, hm] at ho
  have := congrArg BitVec.toNat ho
  simp only [append_toNat] at this
  refine h op ?_ ?_ <;> apply BitVec.eq_of_toNat_eq <;> omega

/-- A row with mask 0xF0FF fixes the family and the low byte. -/
theorem encodedAs_family_kk (f : BitVec 4) (kk : Byte) {m : Word} (hm : m = f ++ ((0 : BitVec 4) ++ kk))
    {b : Word → Instr} (h : ∀ op, opFamily op = f → opKK op = kk → decodeOpcode op = .instr (b op)) :
    EncodedAs m 0xF0FF b := by
  intro op ho
  change op &&& 0xF0FF#16 = m at ho
  rw [mask_family_kk, hm] at ho
  have := congrArg BitVec.toNat ho
  simp only [append_toNat] at this
  have hf := f.isLt
  have hk := (opKK op).isLt
  have hF := (opFamily op).isLt
  have h0 : (0 : BitVec 4).toNat = 0 := rfl
  rw [h0] at this
  clear ho hm
  refine h op ?_ ?_ <;> apply BitVec.eq_of_toNat_eq <;> omega

/-- A row with mask 0xFFFF fixes the opcode. -/
theorem encodedAs_opcode {m : Word} {b : Word → Instr} (h : decodeOpcode m = .instr (b m)) : EncodedAs m 0xFFFF b := by
  intro op ho
  have hop : op &&& 0xFFFF = op := by
    apply BitVec.eq_of_toNat_eq
    have := Nat.and_two_pow_sub_one_of_lt_two_pow op.isLt
    simpa using this
  rw [hop] at ho
  subst ho
  exact h

end Sys2Proof.Safety
end

