-- ==== Sys2Proof/Laws/Memory.lean ====
section
/-! SUPPORT. The laws of memory: a read after a write, and that every memory operation keeps the canonical form. The read laws
hold for every list of cells, canonical or not. -/

namespace Sys2Proof.Machine

variable {g : GlyphTable}

theorem Memory.read_erase (m : Memory) (a b : Nat) :
    (m.erase a).read g b = if b = a then Memory.unlisted g a else m.read g b := by
  induction m with
  | nil => by_cases h : b = a <;> simp [Memory.erase, Memory.read, h]
  | cons c rest ih =>
    obtain ⟨k, v⟩ := c
    simp only [Memory.erase] at ih ⊢
    by_cases hk : k = a <;> by_cases hb : b = a <;> by_cases hkb : k = b <;>
      simp_all [Memory.read]

theorem Memory.read_insert (m : Memory) (a : Nat) (v : Byte) (b : Nat) (h : ∀ c ∈ m, c.1 ≠ a) :
    (Memory.insert a v m).read g b = if b = a then v else m.read g b := by
  induction m with
  | nil => simp [Memory.insert, Memory.read, eq_comm]
  | cons c rest ih =>
    obtain ⟨k, w⟩ := c
    have hk : k ≠ a := h (k, w) (by simp)
    have ih := ih fun c hc => h c (by simp [hc])
    by_cases hlt : a < k
    · simp [Memory.insert, Memory.read, hlt, eq_comm]
    · simp only [Memory.insert, hlt, if_false, Memory.read, ih]
      by_cases hkb : k = b
      · subst hkb; simp [hk]
      · simp [hkb]

theorem Memory.mem_erase {m : Memory} {a : Nat} {c : Host.Cell} :
    c ∈ m.erase a ↔ c ∈ m ∧ c.1 ≠ a := by
  simp [Memory.erase]

/-- Reading after a write: the byte written at its address, what was there before at every other. -/
theorem Memory.read_write (m : Memory) (a : Nat) (v : Byte) (b : Nat) :
    (m.write g a v).read g b = if b = a then v else m.read g b := by
  unfold Memory.write
  split
  · next h => rw [Memory.read_erase, ← h]
  · rw [Memory.read_insert _ _ _ _ fun c hc => (Memory.mem_erase.1 hc).2, Memory.read_erase]
    split <;> rfl

theorem Memory.read_write_other (m : Memory) {a b : Nat} (v : Byte) (h : b ≠ a) :
    (m.write g a v).read g b = m.read g b := by
  simp [Memory.read_write, h]

/-- Reading after storing a list of bytes: the bytes at their addresses, what was there before elsewhere. -/
theorem Memory.read_writeList (m : Memory) (a : Nat) (vs : List Byte) (b : Nat) :
    (m.writeList g a vs).read g b =
      if h : a ≤ b ∧ b < a + vs.length then vs[b - a]'(by omega) else m.read g b := by
  induction vs generalizing m a with
  | nil => simp [Memory.writeList]
  | cons v rest ih =>
    rw [Memory.writeList, ih]
    by_cases hb : b = a
    · subst hb
      simp [Memory.read_write]
    · by_cases hin : a + 1 ≤ b ∧ b < a + 1 + rest.length
      · have h2 : a ≤ b ∧ b < a + (v :: rest).length := by simp; omega
        rw [dif_pos hin, dif_pos h2, List.getElem_cons, dif_neg (by omega)]
        congr 1
      · have h2 : ¬ (a ≤ b ∧ b < a + (v :: rest).length) := by simp; omega
        rw [dif_neg hin, dif_neg h2, Memory.read_write_other _ _ hb]

theorem Memory.wf_erase {m : Memory} (a : Nat) (h : m.wf g) : (m.erase a).wf g :=
  ⟨h.1.filter _, fun c hc => h.2 c (Memory.mem_erase.1 hc).1⟩

theorem Memory.mem_insert {m : Memory} {a : Nat} {v : Byte} {c : Host.Cell} :
    c ∈ Memory.insert a v m ↔ c = (a, v) ∨ c ∈ m := by
  induction m with
  | nil => simp [Memory.insert]
  | cons d rest ih =>
    simp only [Memory.insert]
    split
    · simp
    · simp only [List.mem_cons, ih]; tauto

theorem Memory.wf_insert {m : Memory} {a : Nat} {v : Byte} (h : m.wf g) (hne : ∀ c ∈ m, c.1 ≠ a)
    (ha : a < memSize) (hv : v ≠ Memory.unlisted g a) : (Memory.insert a v m).wf g := by
  refine ⟨?_, fun c hc => ?_⟩
  · obtain ⟨hs, -⟩ := h
    induction m with
    | nil => simp [Memory.insert]
    | cons d rest ih =>
      have hd := hne d (by simp)
      rw [List.pairwise_cons] at hs
      simp only [Memory.insert]
      split
      · next hlt =>
        refine List.pairwise_cons.2 ⟨fun c hc => ?_, List.pairwise_cons.2 hs⟩
        rcases List.mem_cons.1 hc with rfl | hc
        · exact hlt
        · exact Nat.lt_trans hlt (hs.1 c hc)
      · next hlt =>
        refine List.pairwise_cons.2 ⟨fun c hc => ?_, ih (fun c hc => hne c (by simp [hc])) hs.2⟩
        rcases Memory.mem_insert.1 hc with rfl | hc
        · show d.1 < a; omega
        · exact hs.1 c hc
  · rcases Memory.mem_insert.1 hc with rfl | hc
    · exact ⟨ha, hv⟩
    · exact h.2 c hc

/-- A write inside the memory keeps the canonical form. -/
theorem Memory.wf_write {m : Memory} {a : Nat} (v : Byte) (h : m.wf g) (ha : a < memSize) : (m.write g a v).wf g := by
  unfold Memory.write
  split
  · exact Memory.wf_erase a h
  · next hv =>
    exact Memory.wf_insert (Memory.wf_erase a h) (fun c hc => (Memory.mem_erase.1 hc).2) ha hv

/-- Storing a list of bytes inside the memory keeps the canonical form. -/
theorem Memory.wf_writeList {m : Memory} {a : Nat} (vs : List Byte) (h : m.wf g) (ha : a + vs.length ≤ memSize) :
    (m.writeList g a vs).wf g := by
  induction vs generalizing m a with
  | nil => exact h
  | cons v rest ih =>
    simp only [List.length_cons] at ha
    exact ih (Memory.wf_write v h (by omega)) (by omega)

/-- The memory after reset is canonical. -/
theorem Memory.wf_nil : Memory.wf g [] := by simp [Memory.wf]

/-! ## Range checks -/

theorem outOfRange_eq_none {a n : Nat} : outOfRange a n = none ↔ n = 0 ∨ a + n ≤ memSize := by
  unfold outOfRange; split <;> simp <;> omega

theorem outOfRange_eq_some {a n b : Nat} :
    outOfRange a n = some b ↔ (1 ≤ n ∧ memSize < a + n) ∧ b = max a memSize := by
  unfold outOfRange; split <;> simp_all [eq_comm]

end Sys2Proof.Machine
end

