-- ==== Sys2Proof/Laws/State.lean ====
section
/-! SUPPORT. What each update of the state leaves in each field, one lemma a field, so that no later proof unfolds a record
update. -/

namespace Sys2Proof.Machine

@[simp] theorem State.setReg_x (s : State) (r0 : Reg) (v : Byte) : (s.setReg r0 v).x = s.x.set r0 v := rfl
@[simp] theorem State.setReg_index (s : State) (r0 : Reg) (v : Byte) : (s.setReg r0 v).index = s.index := rfl
@[simp] theorem State.setReg_pc (s : State) (r0 : Reg) (v : Byte) : (s.setReg r0 v).pc = s.pc := rfl
@[simp] theorem State.setReg_sp (s : State) (r0 : Reg) (v : Byte) : (s.setReg r0 v).sp = s.sp := rfl
@[simp] theorem State.setReg_stack (s : State) (r0 : Reg) (v : Byte) : (s.setReg r0 v).stack = s.stack := rfl
@[simp] theorem State.setReg_dt (s : State) (r0 : Reg) (v : Byte) : (s.setReg r0 v).dt = s.dt := rfl
@[simp] theorem State.setReg_st (s : State) (r0 : Reg) (v : Byte) : (s.setReg r0 v).st = s.st := rfl
@[simp] theorem State.setReg_keypad (s : State) (r0 : Reg) (v : Byte) : (s.setReg r0 v).keypad = s.keypad := rfl
@[simp] theorem State.setReg_fb (s : State) (r0 : Reg) (v : Byte) : (s.setReg r0 v).fb = s.fb := rfl
@[simp] theorem State.setReg_dirty (s : State) (r0 : Reg) (v : Byte) : (s.setReg r0 v).dirty = s.dirty := rfl
@[simp] theorem State.setReg_mem (s : State) (r0 : Reg) (v : Byte) : (s.setReg r0 v).mem = s.mem := rfl
@[simp] theorem State.setReg_fault (s : State) (r0 : Reg) (v : Byte) : (s.setReg r0 v).fault = s.fault := rfl
@[simp] theorem State.setReg_rnd (s : State) (r0 : Reg) (v : Byte) : (s.setReg r0 v).rnd = s.rnd := rfl
@[simp] theorem State.setReg_inputs (s : State) (r0 : Reg) (v : Byte) : (s.setReg r0 v).inputs = s.inputs := rfl
@[simp] theorem State.setReg_tick (s : State) (r0 : Reg) (v : Byte) : (s.setReg r0 v).tick = s.tick := rfl
@[simp] theorem State.setReg_params (s : State) (r0 : Reg) (v : Byte) : (s.setReg r0 v).params = s.params := rfl
@[simp] theorem State.setReg_byteAt (s : State) (r0 : Reg) (v : Byte) (a : Nat) : (s.setReg r0 v).byteAt a = s.byteAt a := rfl
@[simp] theorem State.setReg_pixel (s : State) (r0 : Reg) (v : Byte) (row : Fin 32) (col : Fin 64) : (s.setReg r0 v).pixel row col = s.pixel row col := rfl
@[simp] theorem State.setReg_key (s : State) (r0 : Reg) (v : Byte) (k : Fin 16) : (s.setReg r0 v).key k = s.key k := rfl

@[simp] theorem State.setFlag_x (s : State) (v : Byte) : (s.setFlag v).x = s.x.set regF v := rfl
@[simp] theorem State.setFlag_index (s : State) (v : Byte) : (s.setFlag v).index = s.index := rfl
@[simp] theorem State.setFlag_pc (s : State) (v : Byte) : (s.setFlag v).pc = s.pc := rfl
@[simp] theorem State.setFlag_sp (s : State) (v : Byte) : (s.setFlag v).sp = s.sp := rfl
@[simp] theorem State.setFlag_stack (s : State) (v : Byte) : (s.setFlag v).stack = s.stack := rfl
@[simp] theorem State.setFlag_dt (s : State) (v : Byte) : (s.setFlag v).dt = s.dt := rfl
@[simp] theorem State.setFlag_st (s : State) (v : Byte) : (s.setFlag v).st = s.st := rfl
@[simp] theorem State.setFlag_keypad (s : State) (v : Byte) : (s.setFlag v).keypad = s.keypad := rfl
@[simp] theorem State.setFlag_fb (s : State) (v : Byte) : (s.setFlag v).fb = s.fb := rfl
@[simp] theorem State.setFlag_dirty (s : State) (v : Byte) : (s.setFlag v).dirty = s.dirty := rfl
@[simp] theorem State.setFlag_mem (s : State) (v : Byte) : (s.setFlag v).mem = s.mem := rfl
@[simp] theorem State.setFlag_fault (s : State) (v : Byte) : (s.setFlag v).fault = s.fault := rfl
@[simp] theorem State.setFlag_rnd (s : State) (v : Byte) : (s.setFlag v).rnd = s.rnd := rfl
@[simp] theorem State.setFlag_inputs (s : State) (v : Byte) : (s.setFlag v).inputs = s.inputs := rfl
@[simp] theorem State.setFlag_tick (s : State) (v : Byte) : (s.setFlag v).tick = s.tick := rfl
@[simp] theorem State.setFlag_params (s : State) (v : Byte) : (s.setFlag v).params = s.params := rfl
@[simp] theorem State.setFlag_byteAt (s : State) (v : Byte) (a : Nat) : (s.setFlag v).byteAt a = s.byteAt a := rfl
@[simp] theorem State.setFlag_pixel (s : State) (v : Byte) (row : Fin 32) (col : Fin 64) : (s.setFlag v).pixel row col = s.pixel row col := rfl
@[simp] theorem State.setFlag_key (s : State) (v : Byte) (k : Fin 16) : (s.setFlag v).key k = s.key k := rfl

@[simp] theorem State.setPc_x (s : State) (p : Word) : (s.setPc p).x = s.x := rfl
@[simp] theorem State.setPc_index (s : State) (p : Word) : (s.setPc p).index = s.index := rfl
@[simp] theorem State.setPc_pc (s : State) (p : Word) : (s.setPc p).pc = p := rfl
@[simp] theorem State.setPc_sp (s : State) (p : Word) : (s.setPc p).sp = s.sp := rfl
@[simp] theorem State.setPc_stack (s : State) (p : Word) : (s.setPc p).stack = s.stack := rfl
@[simp] theorem State.setPc_dt (s : State) (p : Word) : (s.setPc p).dt = s.dt := rfl
@[simp] theorem State.setPc_st (s : State) (p : Word) : (s.setPc p).st = s.st := rfl
@[simp] theorem State.setPc_keypad (s : State) (p : Word) : (s.setPc p).keypad = s.keypad := rfl
@[simp] theorem State.setPc_fb (s : State) (p : Word) : (s.setPc p).fb = s.fb := rfl
@[simp] theorem State.setPc_dirty (s : State) (p : Word) : (s.setPc p).dirty = s.dirty := rfl
@[simp] theorem State.setPc_mem (s : State) (p : Word) : (s.setPc p).mem = s.mem := rfl
@[simp] theorem State.setPc_fault (s : State) (p : Word) : (s.setPc p).fault = s.fault := rfl
@[simp] theorem State.setPc_rnd (s : State) (p : Word) : (s.setPc p).rnd = s.rnd := rfl
@[simp] theorem State.setPc_inputs (s : State) (p : Word) : (s.setPc p).inputs = s.inputs := rfl
@[simp] theorem State.setPc_tick (s : State) (p : Word) : (s.setPc p).tick = s.tick := rfl
@[simp] theorem State.setPc_params (s : State) (p : Word) : (s.setPc p).params = s.params := rfl
@[simp] theorem State.setPc_reg (s : State) (p : Word) (r : Reg) : (s.setPc p).reg r = s.reg r := rfl
@[simp] theorem State.setPc_byteAt (s : State) (p : Word) (a : Nat) : (s.setPc p).byteAt a = s.byteAt a := rfl
@[simp] theorem State.setPc_pixel (s : State) (p : Word) (row : Fin 32) (col : Fin 64) : (s.setPc p).pixel row col = s.pixel row col := rfl
@[simp] theorem State.setPc_key (s : State) (p : Word) (k : Fin 16) : (s.setPc p).key k = s.key k := rfl

@[simp] theorem State.setIndex_x (s : State) (p : Word) : (s.setIndex p).x = s.x := rfl
@[simp] theorem State.setIndex_index (s : State) (p : Word) : (s.setIndex p).index = p := rfl
@[simp] theorem State.setIndex_pc (s : State) (p : Word) : (s.setIndex p).pc = s.pc := rfl
@[simp] theorem State.setIndex_sp (s : State) (p : Word) : (s.setIndex p).sp = s.sp := rfl
@[simp] theorem State.setIndex_stack (s : State) (p : Word) : (s.setIndex p).stack = s.stack := rfl
@[simp] theorem State.setIndex_dt (s : State) (p : Word) : (s.setIndex p).dt = s.dt := rfl
@[simp] theorem State.setIndex_st (s : State) (p : Word) : (s.setIndex p).st = s.st := rfl
@[simp] theorem State.setIndex_keypad (s : State) (p : Word) : (s.setIndex p).keypad = s.keypad := rfl
@[simp] theorem State.setIndex_fb (s : State) (p : Word) : (s.setIndex p).fb = s.fb := rfl
@[simp] theorem State.setIndex_dirty (s : State) (p : Word) : (s.setIndex p).dirty = s.dirty := rfl
@[simp] theorem State.setIndex_mem (s : State) (p : Word) : (s.setIndex p).mem = s.mem := rfl
@[simp] theorem State.setIndex_fault (s : State) (p : Word) : (s.setIndex p).fault = s.fault := rfl
@[simp] theorem State.setIndex_rnd (s : State) (p : Word) : (s.setIndex p).rnd = s.rnd := rfl
@[simp] theorem State.setIndex_inputs (s : State) (p : Word) : (s.setIndex p).inputs = s.inputs := rfl
@[simp] theorem State.setIndex_tick (s : State) (p : Word) : (s.setIndex p).tick = s.tick := rfl
@[simp] theorem State.setIndex_params (s : State) (p : Word) : (s.setIndex p).params = s.params := rfl
@[simp] theorem State.setIndex_reg (s : State) (p : Word) (r : Reg) : (s.setIndex p).reg r = s.reg r := rfl
@[simp] theorem State.setIndex_byteAt (s : State) (p : Word) (a : Nat) : (s.setIndex p).byteAt a = s.byteAt a := rfl
@[simp] theorem State.setIndex_pixel (s : State) (p : Word) (row : Fin 32) (col : Fin 64) : (s.setIndex p).pixel row col = s.pixel row col := rfl
@[simp] theorem State.setIndex_key (s : State) (p : Word) (k : Fin 16) : (s.setIndex p).key k = s.key k := rfl

@[simp] theorem State.setDt_x (s : State) (v : Byte) : (s.setDt v).x = s.x := rfl
@[simp] theorem State.setDt_index (s : State) (v : Byte) : (s.setDt v).index = s.index := rfl
@[simp] theorem State.setDt_pc (s : State) (v : Byte) : (s.setDt v).pc = s.pc := rfl
@[simp] theorem State.setDt_sp (s : State) (v : Byte) : (s.setDt v).sp = s.sp := rfl
@[simp] theorem State.setDt_stack (s : State) (v : Byte) : (s.setDt v).stack = s.stack := rfl
@[simp] theorem State.setDt_dt (s : State) (v : Byte) : (s.setDt v).dt = v := rfl
@[simp] theorem State.setDt_st (s : State) (v : Byte) : (s.setDt v).st = s.st := rfl
@[simp] theorem State.setDt_keypad (s : State) (v : Byte) : (s.setDt v).keypad = s.keypad := rfl
@[simp] theorem State.setDt_fb (s : State) (v : Byte) : (s.setDt v).fb = s.fb := rfl
@[simp] theorem State.setDt_dirty (s : State) (v : Byte) : (s.setDt v).dirty = s.dirty := rfl
@[simp] theorem State.setDt_mem (s : State) (v : Byte) : (s.setDt v).mem = s.mem := rfl
@[simp] theorem State.setDt_fault (s : State) (v : Byte) : (s.setDt v).fault = s.fault := rfl
@[simp] theorem State.setDt_rnd (s : State) (v : Byte) : (s.setDt v).rnd = s.rnd := rfl
@[simp] theorem State.setDt_inputs (s : State) (v : Byte) : (s.setDt v).inputs = s.inputs := rfl
@[simp] theorem State.setDt_tick (s : State) (v : Byte) : (s.setDt v).tick = s.tick := rfl
@[simp] theorem State.setDt_params (s : State) (v : Byte) : (s.setDt v).params = s.params := rfl
@[simp] theorem State.setDt_reg (s : State) (v : Byte) (r : Reg) : (s.setDt v).reg r = s.reg r := rfl
@[simp] theorem State.setDt_byteAt (s : State) (v : Byte) (a : Nat) : (s.setDt v).byteAt a = s.byteAt a := rfl
@[simp] theorem State.setDt_pixel (s : State) (v : Byte) (row : Fin 32) (col : Fin 64) : (s.setDt v).pixel row col = s.pixel row col := rfl
@[simp] theorem State.setDt_key (s : State) (v : Byte) (k : Fin 16) : (s.setDt v).key k = s.key k := rfl

@[simp] theorem State.setSt_x (s : State) (v : Byte) : (s.setSt v).x = s.x := rfl
@[simp] theorem State.setSt_index (s : State) (v : Byte) : (s.setSt v).index = s.index := rfl
@[simp] theorem State.setSt_pc (s : State) (v : Byte) : (s.setSt v).pc = s.pc := rfl
@[simp] theorem State.setSt_sp (s : State) (v : Byte) : (s.setSt v).sp = s.sp := rfl
@[simp] theorem State.setSt_stack (s : State) (v : Byte) : (s.setSt v).stack = s.stack := rfl
@[simp] theorem State.setSt_dt (s : State) (v : Byte) : (s.setSt v).dt = s.dt := rfl
@[simp] theorem State.setSt_st (s : State) (v : Byte) : (s.setSt v).st = v := rfl
@[simp] theorem State.setSt_keypad (s : State) (v : Byte) : (s.setSt v).keypad = s.keypad := rfl
@[simp] theorem State.setSt_fb (s : State) (v : Byte) : (s.setSt v).fb = s.fb := rfl
@[simp] theorem State.setSt_dirty (s : State) (v : Byte) : (s.setSt v).dirty = s.dirty := rfl
@[simp] theorem State.setSt_mem (s : State) (v : Byte) : (s.setSt v).mem = s.mem := rfl
@[simp] theorem State.setSt_fault (s : State) (v : Byte) : (s.setSt v).fault = s.fault := rfl
@[simp] theorem State.setSt_rnd (s : State) (v : Byte) : (s.setSt v).rnd = s.rnd := rfl
@[simp] theorem State.setSt_inputs (s : State) (v : Byte) : (s.setSt v).inputs = s.inputs := rfl
@[simp] theorem State.setSt_tick (s : State) (v : Byte) : (s.setSt v).tick = s.tick := rfl
@[simp] theorem State.setSt_params (s : State) (v : Byte) : (s.setSt v).params = s.params := rfl
@[simp] theorem State.setSt_reg (s : State) (v : Byte) (r : Reg) : (s.setSt v).reg r = s.reg r := rfl
@[simp] theorem State.setSt_byteAt (s : State) (v : Byte) (a : Nat) : (s.setSt v).byteAt a = s.byteAt a := rfl
@[simp] theorem State.setSt_pixel (s : State) (v : Byte) (row : Fin 32) (col : Fin 64) : (s.setSt v).pixel row col = s.pixel row col := rfl
@[simp] theorem State.setSt_key (s : State) (v : Byte) (k : Fin 16) : (s.setSt v).key k = s.key k := rfl

@[simp] theorem State.storeBytes_x (s : State) (p : Nat) (vs : List Byte) : (s.storeBytes p vs).x = s.x := rfl
@[simp] theorem State.storeBytes_index (s : State) (p : Nat) (vs : List Byte) : (s.storeBytes p vs).index = s.index := rfl
@[simp] theorem State.storeBytes_pc (s : State) (p : Nat) (vs : List Byte) : (s.storeBytes p vs).pc = s.pc := rfl
@[simp] theorem State.storeBytes_sp (s : State) (p : Nat) (vs : List Byte) : (s.storeBytes p vs).sp = s.sp := rfl
@[simp] theorem State.storeBytes_stack (s : State) (p : Nat) (vs : List Byte) : (s.storeBytes p vs).stack = s.stack := rfl
@[simp] theorem State.storeBytes_dt (s : State) (p : Nat) (vs : List Byte) : (s.storeBytes p vs).dt = s.dt := rfl
@[simp] theorem State.storeBytes_st (s : State) (p : Nat) (vs : List Byte) : (s.storeBytes p vs).st = s.st := rfl
@[simp] theorem State.storeBytes_keypad (s : State) (p : Nat) (vs : List Byte) : (s.storeBytes p vs).keypad = s.keypad := rfl
@[simp] theorem State.storeBytes_fb (s : State) (p : Nat) (vs : List Byte) : (s.storeBytes p vs).fb = s.fb := rfl
@[simp] theorem State.storeBytes_dirty (s : State) (p : Nat) (vs : List Byte) : (s.storeBytes p vs).dirty = s.dirty := rfl
@[simp] theorem State.storeBytes_mem (s : State) (p : Nat) (vs : List Byte) : (s.storeBytes p vs).mem = s.mem.writeList s.params.glyphTable p vs := rfl
@[simp] theorem State.storeBytes_fault (s : State) (p : Nat) (vs : List Byte) : (s.storeBytes p vs).fault = s.fault := rfl
@[simp] theorem State.storeBytes_rnd (s : State) (p : Nat) (vs : List Byte) : (s.storeBytes p vs).rnd = s.rnd := rfl
@[simp] theorem State.storeBytes_inputs (s : State) (p : Nat) (vs : List Byte) : (s.storeBytes p vs).inputs = s.inputs := rfl
@[simp] theorem State.storeBytes_tick (s : State) (p : Nat) (vs : List Byte) : (s.storeBytes p vs).tick = s.tick := rfl
@[simp] theorem State.storeBytes_params (s : State) (p : Nat) (vs : List Byte) : (s.storeBytes p vs).params = s.params := rfl
@[simp] theorem State.storeBytes_reg (s : State) (p : Nat) (vs : List Byte) (r : Reg) : (s.storeBytes p vs).reg r = s.reg r := rfl
@[simp] theorem State.storeBytes_pixel (s : State) (p : Nat) (vs : List Byte) (row : Fin 32) (col : Fin 64) : (s.storeBytes p vs).pixel row col = s.pixel row col := rfl
@[simp] theorem State.storeBytes_key (s : State) (p : Nat) (vs : List Byte) (k : Fin 16) : (s.storeBytes p vs).key k = s.key k := rfl

@[simp] theorem State.show_x (s : State) (d : Drawing) : (s.show d).x = s.x.set regF (if d.hit then 1 else 0) := rfl
@[simp] theorem State.show_index (s : State) (d : Drawing) : (s.show d).index = s.index := rfl
@[simp] theorem State.show_pc (s : State) (d : Drawing) : (s.show d).pc = s.pc := rfl
@[simp] theorem State.show_sp (s : State) (d : Drawing) : (s.show d).sp = s.sp := rfl
@[simp] theorem State.show_stack (s : State) (d : Drawing) : (s.show d).stack = s.stack := rfl
@[simp] theorem State.show_dt (s : State) (d : Drawing) : (s.show d).dt = s.dt := rfl
@[simp] theorem State.show_st (s : State) (d : Drawing) : (s.show d).st = s.st := rfl
@[simp] theorem State.show_keypad (s : State) (d : Drawing) : (s.show d).keypad = s.keypad := rfl
@[simp] theorem State.show_fb (s : State) (d : Drawing) : (s.show d).fb = d.fb := rfl
@[simp] theorem State.show_dirty (s : State) (d : Drawing) : (s.show d).dirty = true := rfl
@[simp] theorem State.show_mem (s : State) (d : Drawing) : (s.show d).mem = s.mem := rfl
@[simp] theorem State.show_fault (s : State) (d : Drawing) : (s.show d).fault = s.fault := rfl
@[simp] theorem State.show_rnd (s : State) (d : Drawing) : (s.show d).rnd = s.rnd := rfl
@[simp] theorem State.show_inputs (s : State) (d : Drawing) : (s.show d).inputs = s.inputs := rfl
@[simp] theorem State.show_tick (s : State) (d : Drawing) : (s.show d).tick = s.tick := rfl
@[simp] theorem State.show_params (s : State) (d : Drawing) : (s.show d).params = s.params := rfl
@[simp] theorem State.show_byteAt (s : State) (d : Drawing) (a : Nat) : (s.show d).byteAt a = s.byteAt a := rfl
@[simp] theorem State.show_key (s : State) (d : Drawing) (k : Fin 16) : (s.show d).key k = s.key k := rfl

@[simp] theorem State.enterFault_x (s : State) (c : FaultCause) (p : Word) (o : Option Word) (i : Option Nat) : (s.enterFault c p o i).x = s.x := rfl
@[simp] theorem State.enterFault_index (s : State) (c : FaultCause) (p : Word) (o : Option Word) (i : Option Nat) : (s.enterFault c p o i).index = s.index := rfl
@[simp] theorem State.enterFault_pc (s : State) (c : FaultCause) (p : Word) (o : Option Word) (i : Option Nat) : (s.enterFault c p o i).pc = p := rfl
@[simp] theorem State.enterFault_sp (s : State) (c : FaultCause) (p : Word) (o : Option Word) (i : Option Nat) : (s.enterFault c p o i).sp = s.sp := rfl
@[simp] theorem State.enterFault_stack (s : State) (c : FaultCause) (p : Word) (o : Option Word) (i : Option Nat) : (s.enterFault c p o i).stack = s.stack := rfl
@[simp] theorem State.enterFault_dt (s : State) (c : FaultCause) (p : Word) (o : Option Word) (i : Option Nat) : (s.enterFault c p o i).dt = s.dt := rfl
@[simp] theorem State.enterFault_st (s : State) (c : FaultCause) (p : Word) (o : Option Word) (i : Option Nat) : (s.enterFault c p o i).st = s.st := rfl
@[simp] theorem State.enterFault_keypad (s : State) (c : FaultCause) (p : Word) (o : Option Word) (i : Option Nat) : (s.enterFault c p o i).keypad = s.keypad := rfl
@[simp] theorem State.enterFault_fb (s : State) (c : FaultCause) (p : Word) (o : Option Word) (i : Option Nat) : (s.enterFault c p o i).fb = s.fb := rfl
@[simp] theorem State.enterFault_dirty (s : State) (c : FaultCause) (p : Word) (o : Option Word) (i : Option Nat) : (s.enterFault c p o i).dirty = s.dirty := rfl
@[simp] theorem State.enterFault_mem (s : State) (c : FaultCause) (p : Word) (o : Option Word) (i : Option Nat) : (s.enterFault c p o i).mem = s.mem := rfl
@[simp] theorem State.enterFault_fault (s : State) (c : FaultCause) (p : Word) (o : Option Word) (i : Option Nat) : (s.enterFault c p o i).fault = some ⟨c, p, o, i⟩ := rfl
@[simp] theorem State.enterFault_rnd (s : State) (c : FaultCause) (p : Word) (o : Option Word) (i : Option Nat) : (s.enterFault c p o i).rnd = s.rnd := rfl
@[simp] theorem State.enterFault_inputs (s : State) (c : FaultCause) (p : Word) (o : Option Word) (i : Option Nat) : (s.enterFault c p o i).inputs = s.inputs := rfl
@[simp] theorem State.enterFault_tick (s : State) (c : FaultCause) (p : Word) (o : Option Word) (i : Option Nat) : (s.enterFault c p o i).tick = s.tick := rfl
@[simp] theorem State.enterFault_params (s : State) (c : FaultCause) (p : Word) (o : Option Word) (i : Option Nat) : (s.enterFault c p o i).params = s.params := rfl
@[simp] theorem State.enterFault_reg (s : State) (c : FaultCause) (p : Word) (o : Option Word) (i : Option Nat) (r : Reg) : (s.enterFault c p o i).reg r = s.reg r := rfl
@[simp] theorem State.enterFault_byteAt (s : State) (c : FaultCause) (p : Word) (o : Option Word) (i : Option Nat) (a : Nat) : (s.enterFault c p o i).byteAt a = s.byteAt a := rfl
@[simp] theorem State.enterFault_pixel (s : State) (c : FaultCause) (p : Word) (o : Option Word) (i : Option Nat) (row : Fin 32) (col : Fin 64) : (s.enterFault c p o i).pixel row col = s.pixel row col := rfl
@[simp] theorem State.enterFault_key (s : State) (c : FaultCause) (p : Word) (o : Option Word) (i : Option Nat) (k : Fin 16) : (s.enterFault c p o i).key k = s.key k := rfl

@[simp] theorem State.decrementTimers_x (s : State) : (s.decrementTimers).x = s.x := rfl
@[simp] theorem State.decrementTimers_index (s : State) : (s.decrementTimers).index = s.index := rfl
@[simp] theorem State.decrementTimers_pc (s : State) : (s.decrementTimers).pc = s.pc := rfl
@[simp] theorem State.decrementTimers_sp (s : State) : (s.decrementTimers).sp = s.sp := rfl
@[simp] theorem State.decrementTimers_stack (s : State) : (s.decrementTimers).stack = s.stack := rfl
@[simp] theorem State.decrementTimers_dt (s : State) : (s.decrementTimers).dt = timerTick s.dt := rfl
@[simp] theorem State.decrementTimers_st (s : State) : (s.decrementTimers).st = timerTick s.st := rfl
@[simp] theorem State.decrementTimers_keypad (s : State) : (s.decrementTimers).keypad = s.keypad := rfl
@[simp] theorem State.decrementTimers_fb (s : State) : (s.decrementTimers).fb = s.fb := rfl
@[simp] theorem State.decrementTimers_dirty (s : State) : (s.decrementTimers).dirty = s.dirty := rfl
@[simp] theorem State.decrementTimers_mem (s : State) : (s.decrementTimers).mem = s.mem := rfl
@[simp] theorem State.decrementTimers_fault (s : State) : (s.decrementTimers).fault = s.fault := rfl
@[simp] theorem State.decrementTimers_rnd (s : State) : (s.decrementTimers).rnd = s.rnd := rfl
@[simp] theorem State.decrementTimers_inputs (s : State) : (s.decrementTimers).inputs = s.inputs := rfl
@[simp] theorem State.decrementTimers_tick (s : State) : (s.decrementTimers).tick = s.tick := rfl
@[simp] theorem State.decrementTimers_params (s : State) : (s.decrementTimers).params = s.params := rfl
@[simp] theorem State.decrementTimers_reg (s : State) (r : Reg) : (s.decrementTimers).reg r = s.reg r := rfl
@[simp] theorem State.decrementTimers_byteAt (s : State) (a : Nat) : (s.decrementTimers).byteAt a = s.byteAt a := rfl
@[simp] theorem State.decrementTimers_pixel (s : State) (row : Fin 32) (col : Fin 64) : (s.decrementTimers).pixel row col = s.pixel row col := rfl
@[simp] theorem State.decrementTimers_key (s : State) (k : Fin 16) : (s.decrementTimers).key k = s.key k := rfl

@[simp] theorem State.latch_x (s : State) : (s.latch).x = s.x := rfl
@[simp] theorem State.latch_index (s : State) : (s.latch).index = s.index := rfl
@[simp] theorem State.latch_pc (s : State) : (s.latch).pc = s.pc := rfl
@[simp] theorem State.latch_sp (s : State) : (s.latch).sp = s.sp := rfl
@[simp] theorem State.latch_stack (s : State) : (s.latch).stack = s.stack := rfl
@[simp] theorem State.latch_dt (s : State) : (s.latch).dt = s.dt := rfl
@[simp] theorem State.latch_st (s : State) : (s.latch).st = s.st := rfl
@[simp] theorem State.latch_keypad (s : State) : (s.latch).keypad = s.currentInput.keys := rfl
@[simp] theorem State.latch_fb (s : State) : (s.latch).fb = s.fb := rfl
@[simp] theorem State.latch_dirty (s : State) : (s.latch).dirty = s.dirty := rfl
@[simp] theorem State.latch_mem (s : State) : (s.latch).mem = s.mem := rfl
@[simp] theorem State.latch_fault (s : State) : (s.latch).fault = s.fault := rfl
@[simp] theorem State.latch_rnd (s : State) : (s.latch).rnd = s.currentInput.rnd := rfl
@[simp] theorem State.latch_inputs (s : State) : (s.latch).inputs = s.inputs.tail := rfl
@[simp] theorem State.latch_tick (s : State) : (s.latch).tick = s.tick + 1 := rfl
@[simp] theorem State.latch_params (s : State) : (s.latch).params = s.params := rfl
@[simp] theorem State.latch_reg (s : State) (r : Reg) : (s.latch).reg r = s.reg r := rfl
@[simp] theorem State.latch_byteAt (s : State) (a : Nat) : (s.latch).byteAt a = s.byteAt a := rfl
@[simp] theorem State.latch_pixel (s : State) (row : Fin 32) (col : Fin 64) : (s.latch).pixel row col = s.pixel row col := rfl

@[simp] theorem State.resetWith_x (p : Params) : (State.resetWith p).x = Vector.replicate 16 0 := rfl
@[simp] theorem State.resetWith_index (p : Params) : (State.resetWith p).index = 0 := rfl
@[simp] theorem State.resetWith_pc (p : Params) : (State.resetWith p).pc = 0x200 := rfl
@[simp] theorem State.resetWith_sp (p : Params) : (State.resetWith p).sp = 0 := rfl
@[simp] theorem State.resetWith_stack (p : Params) : (State.resetWith p).stack = Vector.replicate 16 0 := rfl
@[simp] theorem State.resetWith_dt (p : Params) : (State.resetWith p).dt = 0 := rfl
@[simp] theorem State.resetWith_st (p : Params) : (State.resetWith p).st = 0 := rfl
@[simp] theorem State.resetWith_keypad (p : Params) : (State.resetWith p).keypad = Vector.replicate 16 false := rfl
@[simp] theorem State.resetWith_fb (p : Params) : (State.resetWith p).fb = Vector.replicate 32 (Vector.replicate 64 false) := rfl
@[simp] theorem State.resetWith_dirty (p : Params) : (State.resetWith p).dirty = false := rfl
@[simp] theorem State.resetWith_mem (p : Params) : (State.resetWith p).mem = [] := rfl
@[simp] theorem State.resetWith_fault (p : Params) : (State.resetWith p).fault = none := rfl
@[simp] theorem State.resetWith_rnd (p : Params) : (State.resetWith p).rnd = 0 := rfl
@[simp] theorem State.resetWith_inputs (p : Params) : (State.resetWith p).inputs = [] := rfl
@[simp] theorem State.resetWith_tick (p : Params) : (State.resetWith p).tick = 0 := rfl
@[simp] theorem State.resetWith_params (p : Params) : (State.resetWith p).params = p := rfl
@[simp] theorem State.resetWith_byteAt (p : Params) (a : Nat) :
    (State.resetWith p).byteAt a = Memory.unlisted p.glyphTable a := rfl

end Sys2Proof.Machine
end

