-- ==== Sys2Proof/Laws/Ops.lean ====
section
/-! SUPPORT. What each shared operation over registers, the stack, memory, skips and faults can do, said once. -/

namespace Sys2Proof.Machine

/-! ## Registers -/

@[simp] theorem State.reg_setReg (s : State) (r0 r : Reg) (v : Byte) :
    (s.setReg r0 v).reg r = if r = r0 then v else s.reg r := by
  simp only [State.reg, State.setReg, Fin.getElem_fin, Vector.getElem_set, Fin.val_inj, eq_comm]

@[simp] theorem State.reg_setFlag (s : State) (r : Reg) (v : Byte) :
    (s.setFlag v).reg r = if r = regF then v else s.reg r :=
  State.reg_setReg s regF r v

@[simp] theorem State.reg_show (s : State) (r : Reg) (d : Drawing) :
    (s.show d).reg r = if r = regF then flagByte d.hit else s.reg r :=
  State.reg_setReg s regF r _

/-! ## The call stack -/

/-- A push answers the state with the entry stored and `SP` one higher, unless the stack is full. -/
theorem State.push_eq_some {s t : State} {a : Word} :
    s.push a = some t ↔ ∃ h : s.sp.val < 16,
      t = { s with stack := s.stack.set s.sp.val a, sp := ⟨s.sp.val + 1, by omega⟩ } := by
  unfold State.push
  split
  · next h => simp [h, eq_comm]
  · next h => simp [h]

theorem State.push_eq_none {s : State} {a : Word} : s.push a = none ↔ s.sp.val = 16 := by
  unfold State.push
  have := s.sp.isLt
  split <;> simp <;> omega

/-- A pop answers the entry below `SP` and the state with `SP` one lower, unless the stack is empty. -/
theorem State.pop_eq_some {s t : State} {a : Word} :
    s.pop = some (a, t) ↔ ∃ h : 0 < s.sp.val,
      a = s.stack[s.sp.val - 1]'(by omega) ∧ t = { s with sp := ⟨s.sp.val - 1, by omega⟩ } := by
  unfold State.pop
  split
  · next h => simp [h, eq_comm]
  · next h => simp [h]

theorem State.pop_eq_none {s : State} : s.pop = none ↔ s.sp.val = 0 := by
  unfold State.pop
  split <;> simp <;> omega

/-! ## Memory -/

/-- A byte read after storing bytes: the stored byte at its address, what was there before elsewhere. -/
theorem State.byteAt_storeBytes (s : State) (a : Nat) (vs : List Byte) (b : Nat) :
    (s.storeBytes a vs).byteAt b =
      if h : a ≤ b ∧ b < a + vs.length then vs[b - a]'(by omega) else s.byteAt b :=
  Memory.read_writeList s.mem a vs b

/-! ## Skips -/

theorem State.skipIf_cases (s : State) (c : Bool) :
    (c = true ∧ s.skipIf c = s.setPc (s.pc + 2)) ∨ (c = false ∧ s.skipIf c = s) := by
  cases c <;> simp [State.skipIf]

/-! ## Raising and finishing -/

theorem raise_eq (i : Instr) (cause : FaultCause) (info : Option Nat) (s : State) :
    raise i cause info s = .next (s.enterFault cause (s.pc - 2) (some (encode i)) info) := rfl

/-- The end of a step after a handler that raised: the record is set and nothing else is kept of it. -/
theorem State.finish_faulted {s0 t : State} (h : t.fault.isSome) :
    s0.finish t = { s0 with fault := t.fault } := by simp [State.finish, h]

/-- The end of a step after a handler that did not raise: the timers count down. -/
theorem State.finish_running {s0 t : State} (h : t.fault = none) : s0.finish t = t.decrementTimers := by
  simp [State.finish, h]

/-! ## The step -/

/-- Everything a step can do: stay halted, fault in the fetch, run a decoded instruction, or pass an unrecognised opcode. -/
theorem step_cases {s t : State} (h : step s = .next t) :
    (s.fault.isSome ∧ t = s) ∨
    (s.fault = none ∧ ∃ a, outOfRange s.pc.toNat 2 = some a ∧
      t = s.latch.enterFault .memoryRange s.pc none (some a)) ∨
    (s.fault = none ∧ outOfRange s.pc.toNat 2 = none ∧
      ((∃ i u, decodeOpcode s.opcodeAtPc = .instr i ∧ exec i (s.latch.setPc (s.pc + 2)) = .next u ∧
          t = s.latch.finish u) ∨
        (∃ w, decodeOpcode s.opcodeAtPc = .unrecognized w ∧
          t = (s.latch.setPc (s.pc + 2)).decrementTimers))) := by
  have hop : s.latch.opcodeAtPc = s.opcodeAtPc := rfl
  unfold step cycle at h
  split at h
  · next hf => cases h; exact .inl ⟨hf, rfl⟩
  · next hf =>
    have hf : s.fault = none := by simpa using hf
    simp only [State.latch_pc, hop] at h
    split at h
    · next a ha => cases h; exact .inr (.inl ⟨hf, a, ha, rfl⟩)
    · next ha =>
      refine .inr (.inr ⟨hf, ha, ?_⟩)
      unfold execOpcode at h
      split at h
      · next u hu =>
        split at hu
        · next i hi => cases h; exact .inl ⟨i, u, hi, hu, rfl⟩
        · next w hw =>
          cases h; cases hu
          exact .inr ⟨w, hw, State.finish_running (by simpa using hf)⟩
      · cases h
      · cases h

end Sys2Proof.Machine
end

