-- ==== Sys2Proof/Laws/Operands.lean ====
section
/-! SUPPORT. What each shared operand form can do, said once: key and glyph indexes, register blocks and sprites. -/

namespace Sys2Proof.Machine

/-! ## Key and glyph indexes -/

theorem keyIndex_eq_some {v : Byte} {k : Fin 16} : keyIndex v = some k ↔ v.toNat = k.val := by
  unfold keyIndex
  split
  · simp [Fin.ext_iff]
  · simp; omega

theorem keyIndex_eq_none {v : Byte} : keyIndex v = none ↔ 15 < v.toNat := by
  unfold keyIndex
  split <;> simp <;> omega

theorem glyphAddress_eq_some {v : Byte} {a : Word} :
    glyphAddress v = some a ↔ v.toNat ≤ 15 ∧ a.toNat = 0x050 + 5 * v.toNat := by
  unfold glyphAddress
  split
  · next h =>
    constructor
    · rintro ⟨⟩; refine ⟨by omega, ?_⟩; simp [glyphBase]; omega
    · rintro ⟨-, ha⟩
      rw [Option.some_inj]
      apply BitVec.eq_of_toNat_eq
      simp [glyphBase]; omega
  · simp; omega

theorem glyphAddress_eq_none {v : Byte} : glyphAddress v = none ↔ 15 < v.toNat := by
  unfold glyphAddress
  split <;> simp <;> omega

/-- The least pressed key: it is pressed and no key below it is. -/
theorem firstKey_eq_some {keys : Keys} {k : Fin 16} :
    firstKey keys = some k ↔ keys[k] = true ∧ ∀ j < k, keys[j] = false := by
  unfold firstKey
  rw [List.find?_eq_some_iff_getElem]
  constructor
  · rintro ⟨hk, i, hi, rfl, hj⟩
    refine ⟨by simpa using hk, fun j hjk => ?_⟩
    have hlt : j.val < i := by simpa [Fin.lt_def] using hjk
    simpa using hj j.val hlt
  · rintro ⟨hk, hj⟩
    refine ⟨by simpa using hk, k.val, by simp, by simp, fun j hjk => ?_⟩
    simpa using hj ⟨j, by omega⟩ hjk

theorem firstKey_eq_none {keys : Keys} : firstKey keys = none ↔ ∀ k : Fin 16, keys[k] = false := by
  simp [firstKey, List.find?_eq_none]

/-! ## Register blocks -/

theorem mem_regsUpTo {x r : Reg} : r ∈ regsUpTo x ↔ r ≤ x := by simp [regsUpTo]

theorem nodup_regsUpTo (x : Reg) : (regsUpTo x).Nodup := (List.nodup_finRange 16).filter _

theorem regsUpTo_eq_take (x : Reg) : regsUpTo x = (List.finRange 16).take (x.val + 1) := by
  revert x; decide

@[simp] theorem length_regsUpTo (x : Reg) : (regsUpTo x).length = x.val + 1 := by
  rw [regsUpTo_eq_take]; simp

@[simp] theorem length_regBlock (x : Reg) (s : State) : (s.regBlock x).length = x.val + 1 := by
  simp [State.regBlock]

theorem getElem_regBlock (x : Reg) (s : State) (k : Nat) (h : k < (s.regBlock x).length) :
    (s.regBlock x)[k] = s.reg ⟨k, by simp at h; omega⟩ := by
  simp [State.regBlock, regsUpTo_eq_take]

theorem loadRegs_aux (a : Nat) (l : List Reg) (s : State) :
    (∀ r, (l.foldl (fun t r => t.setReg r (t.byteAt (a + r.val))) s).reg r =
      if r ∈ l then s.byteAt (a + r.val) else s.reg r) ∧
    ∃ x', l.foldl (fun t r => t.setReg r (t.byteAt (a + r.val))) s = { s with x := x' } := by
  induction l generalizing s with
  | nil => exact ⟨by simp, s.x, rfl⟩
  | cons c l ih =>
    obtain ⟨h1, x', h2⟩ := ih (s.setReg c (s.byteAt (a + c.val)))
    refine ⟨fun r => ?_, x', h2⟩
    rw [List.foldl_cons, h1]
    by_cases hl : r ∈ l
    · simp [hl]
    · by_cases hr : r = c
      · subst hr; simp
      · simp [hl, hr]

/-- FX65's transfer: registers 0 to `x` get the bytes, every other register and everything else stays. -/
theorem State.reg_loadRegs (s : State) (a : Nat) (x r : Reg) :
    (s.loadRegs a x).reg r = if r ≤ x then s.byteAt (a + r.val) else s.reg r := by
  exact ((loadRegs_aux a (regsUpTo x) s).1 r).trans (by simp [mem_regsUpTo])

theorem State.loadRegs_rest (s : State) (a : Nat) (x : Reg) : ∃ x', s.loadRegs a x = { s with x := x' } :=
  (loadRegs_aux a (regsUpTo x) s).2

/-! ## Sprites -/

theorem Drawing.plot_pixel (d : Drawing) (r r' : Fin 32) (c c' : Fin 64) (bit : Bool) :
    (d.plot r c bit).fb[r'][c'] = if r' = r ∧ c' = c then d.fb[r][c] ^^ bit else d.fb[r'][c'] := by
  simp only [Drawing.plot, Fin.getElem_fin, Vector.getElem_set]
  by_cases hr : r' = r
  · subst hr
    by_cases hc : c' = c
    · subst hc; simp
    · have : ¬ c.val = c'.val := fun e => hc (Fin.ext e.symm)
      simp [hc, this]
  · have : ¬ r.val = r'.val := fun e => hr (Fin.ext e.symm)
    simp [hr, this]

/-- The bits of a sprite with the pixels they land on, in drawing order. -/
def spritePlots (g : GlyphTable) (m : Memory) (a cx cy n : Nat) : List (Fin 32 × Fin 64 × Bool) :=
  (List.range n).flatMap fun row =>
    (List.range 8).map fun col => (wrapRow (cy + row), wrapCol (cx + col), spriteBit (m.read g (a + row)) col)

theorem drawSprite_eq_plots (g : GlyphTable) (m : Memory) (a cx cy n : Nat) (d : Drawing) :
    drawSprite g m a cx cy n d = (spritePlots g m a cx cy n).foldl (fun d p => d.plot p.1 p.2.1 p.2.2) d := by
  simp only [drawSprite, spritePlots, drawRow, List.foldl_flatMap, List.foldl_map]

/-- Plotting bits on distinct pixels: each pixel is XORed with its bit, and the collision is judged on the pixels as they were. -/
theorem foldl_plot (l : List (Fin 32 × Fin 64 × Bool)) (hl : l.Pairwise fun p q => (p.1, p.2.1) ≠ (q.1, q.2.1)) (d : Drawing) :
    (∀ (r : Fin 32) (c : Fin 64), (l.foldl (fun d p => d.plot p.1 p.2.1 p.2.2) d).fb[r][c] =
      (d.fb[r][c] ^^ decide ((r, c, true) ∈ l))) ∧
    ((l.foldl (fun d p => d.plot p.1 p.2.1 p.2.2) d).hit = true ↔
      d.hit = true ∨ ∃ (r : Fin 32) (c : Fin 64), (r, c, true) ∈ l ∧ d.fb[r][c] = true) := by
  induction l generalizing d with
  | nil => simp
  | cons p l ih =>
    obtain ⟨pr, pc, pb⟩ := p
    obtain ⟨hp, hl⟩ := List.pairwise_cons.1 hl
    obtain ⟨h1, h2⟩ := ih hl (d.plot pr pc pb)
    have hnot : ∀ b, (pr, pc, b) ∉ l := fun b hb => hp _ hb rfl
    refine ⟨fun r c => ?_, ?_⟩
    · rw [List.foldl_cons, h1, Drawing.plot_pixel]
      by_cases hrc : r = pr ∧ c = pc
      · obtain ⟨rfl, rfl⟩ := hrc
        cases pb <;> simp [hnot]
      · have : (r, c, true) ≠ (pr, pc, pb) := fun e => hrc (by cases e; exact ⟨rfl, rfl⟩)
        rw [if_neg hrc]
        simp only [List.mem_cons, this, false_or]
    · rw [List.foldl_cons, h2]
      have hplot : (d.plot pr pc pb).hit = true ↔ d.hit = true ∨ (pb = true ∧ d.fb[pr][pc] = true) := by
        simp [Drawing.plot]
      rw [hplot, or_assoc]
      refine or_congr_right ?_
      constructor
      · rintro (⟨rfl, hd⟩ | ⟨r, c, hm, hd⟩)
        · exact ⟨pr, pc, by simp, hd⟩
        · refine ⟨r, c, by simp [hm], ?_⟩
          rw [Drawing.plot_pixel, if_neg] at hd
          · exact hd
          · rintro ⟨rfl, rfl⟩; exact hnot _ hm
      · rintro ⟨r, c, hmem, hd⟩
        rcases List.mem_cons.1 hmem with e | hm
        · cases e; exact .inl ⟨rfl, hd⟩
        · refine .inr ⟨r, c, hm, ?_⟩
          rw [Drawing.plot_pixel, if_neg]
          · exact hd
          · rintro ⟨rfl, rfl⟩; exact hnot true hm

theorem mem_spritePlots {g : GlyphTable} {m : Memory} {a cx cy n : Nat} {r : Fin 32} {c : Fin 64} :
    (r, c, true) ∈ spritePlots g m a cx cy n ↔ ∃ row col : Nat, row < n ∧ col < 8 ∧
      (cy + row) % 32 = r.val ∧ (cx + col) % 64 = c.val ∧ (m.read g (a + row)).getLsbD (7 - col) = true := by
  simp only [spritePlots, List.mem_flatMap, List.mem_range, List.mem_map, Prod.mk.injEq, wrapRow, wrapCol, spriteBit,
    Fin.ext_iff, Fin.val_ofNat]
  constructor
  · rintro ⟨row, hrow, col, hcol, h1, h2, h3⟩; exact ⟨row, col, hrow, hcol, h1, h2, h3⟩
  · rintro ⟨row, col, hrow, hcol, h1, h2, h3⟩; exact ⟨row, hrow, col, hcol, h1, h2, h3⟩

theorem spritePlots_distinct (g : GlyphTable) (m : Memory) (a cx cy n : Nat) (hn : n ≤ 32) :
    (spritePlots g m a cx cy n).Pairwise fun p q => (p.1, p.2.1) ≠ (q.1, q.2.1) := by
  rw [spritePlots, List.pairwise_flatMap]
  refine ⟨fun row _ => ?_, ?_⟩
  · rw [List.pairwise_map]
    refine List.Pairwise.imp_of_mem ?_ (List.pairwise_lt_range (n := 8))
    intro i j hi hj hij h
    simp only [List.mem_range] at hi hj
    have := congrArg (fun p : Fin 32 × Fin 64 => p.2.val) h
    simp only [wrapCol, Fin.val_ofNat] at this
    omega
  · refine List.Pairwise.imp_of_mem ?_ (List.pairwise_lt_range (n := n))
    intro i j hi hj hij p hp q hq h
    simp only [List.mem_range] at hi hj
    simp only [List.mem_map] at hp hq
    obtain ⟨_, -, rfl⟩ := hp
    obtain ⟨_, -, rfl⟩ := hq
    have := congrArg (fun p : Fin 32 × Fin 64 => p.1.val) h
    simp only [wrapRow, Fin.val_ofNat] at this
    omega

end Sys2Proof.Machine
end

