-- ==== Sys2Proof/Laws/PerInstr.lean ====
section
/-! SUPPORT. Laws made per instruction: what every instruction's opcode satisfies. -/

namespace Sys2Proof.Laws.Recognized

/-- The opcode of an instruction is well formed: a row of the opcode map selects it (spec/30_encoding.md R84). -/
def Statement (i : Instr) : Prop := wellFormedOpcode (encode i) = true

theorem of_row {op : Word} (row : OpcodeRow) (h : row ∈ opcodeMap) (hs : op &&& row.mask = row.matchBits) :
    wellFormedOpcode op = true :=
  List.any_eq_true.2 ⟨row, h, by simp [OpcodeRow.selects, hs]⟩

theorem cls : Statement (.cls) :=
  show wellFormedOpcode _ = true from by decide

theorem ret : Statement (.ret) :=
  show wellFormedOpcode _ = true from by decide

theorem jp (nnn : Addr12) : Statement (.jp nnn) :=
  of_row ⟨"JP", 0x1000, 0xF000⟩ (by decide) (by simp [encode, mask_family])

theorem call (nnn : Addr12) : Statement (.call nnn) :=
  of_row ⟨"CALL", 0x2000, 0xF000⟩ (by decide) (by simp [encode, mask_family])

theorem seImm (x : Reg) (kk : Byte) : Statement (.seImm x kk) :=
  of_row ⟨"SE", 0x3000, 0xF000⟩ (by decide) (by simp [encode, mask_family])

theorem sneImm (x : Reg) (kk : Byte) : Statement (.sneImm x kk) :=
  of_row ⟨"SNE", 0x4000, 0xF000⟩ (by decide) (by simp [encode, mask_family])

theorem seReg (x y : Reg) : Statement (.seReg x y) :=
  of_row ⟨"SE", 0x5000, 0xF00F⟩ (by decide) (by simp [encode, mask_family_n])

theorem ldImm (x : Reg) (kk : Byte) : Statement (.ldImm x kk) :=
  of_row ⟨"LD", 0x6000, 0xF000⟩ (by decide) (by simp [encode, mask_family])

theorem addImm (x : Reg) (kk : Byte) : Statement (.addImm x kk) :=
  of_row ⟨"ADD", 0x7000, 0xF000⟩ (by decide) (by simp [encode, mask_family])

theorem ldReg (x y : Reg) : Statement (.ldReg x y) :=
  of_row ⟨"LD", 0x8000, 0xF00F⟩ (by decide) (by simp [encode, mask_family_n])

theorem orReg (x y : Reg) : Statement (.orReg x y) :=
  of_row ⟨"OR", 0x8001, 0xF00F⟩ (by decide) (by simp [encode, mask_family_n])

theorem andReg (x y : Reg) : Statement (.andReg x y) :=
  of_row ⟨"AND", 0x8002, 0xF00F⟩ (by decide) (by simp [encode, mask_family_n])

theorem xorReg (x y : Reg) : Statement (.xorReg x y) :=
  of_row ⟨"XOR", 0x8003, 0xF00F⟩ (by decide) (by simp [encode, mask_family_n])

theorem addReg (x y : Reg) : Statement (.addReg x y) :=
  of_row ⟨"ADD", 0x8004, 0xF00F⟩ (by decide) (by simp [encode, mask_family_n])

theorem subReg (x y : Reg) : Statement (.subReg x y) :=
  of_row ⟨"SUB", 0x8005, 0xF00F⟩ (by decide) (by simp [encode, mask_family_n])

theorem shr (x y : Reg) : Statement (.shr x y) :=
  of_row ⟨"SHR", 0x8006, 0xF00F⟩ (by decide) (by simp [encode, mask_family_n])

theorem subnReg (x y : Reg) : Statement (.subnReg x y) :=
  of_row ⟨"SUBN", 0x8007, 0xF00F⟩ (by decide) (by simp [encode, mask_family_n])

theorem shl (x y : Reg) : Statement (.shl x y) :=
  of_row ⟨"SHL", 0x800E, 0xF00F⟩ (by decide) (by simp [encode, mask_family_n])

theorem sneReg (x y : Reg) : Statement (.sneReg x y) :=
  of_row ⟨"SNE", 0x9000, 0xF00F⟩ (by decide) (by simp [encode, mask_family_n])

theorem ldI (nnn : Addr12) : Statement (.ldI nnn) :=
  of_row ⟨"LD", 0xA000, 0xF000⟩ (by decide) (by simp [encode, mask_family])

theorem jpV0 (nnn : Addr12) : Statement (.jpV0 nnn) :=
  of_row ⟨"JP", 0xB000, 0xF000⟩ (by decide) (by simp [encode, mask_family])

theorem rnd (x : Reg) (kk : Byte) : Statement (.rnd x kk) :=
  of_row ⟨"RND", 0xC000, 0xF000⟩ (by decide) (by simp [encode, mask_family])

theorem drw (x y : Reg) (n : Nibble) : Statement (.drw x y n) :=
  of_row ⟨"DRW", 0xD000, 0xF000⟩ (by decide) (by simp [encode, mask_family])

theorem skp (x : Reg) : Statement (.skp x) :=
  of_row ⟨"SKP", 0xE09E, 0xF0FF⟩ (by decide) (by simp [encode, mask_family_kk])

theorem sknp (x : Reg) : Statement (.sknp x) :=
  of_row ⟨"SKNP", 0xE0A1, 0xF0FF⟩ (by decide) (by simp [encode, mask_family_kk])

theorem ldVxDt (x : Reg) : Statement (.ldVxDt x) :=
  of_row ⟨"LD", 0xF007, 0xF0FF⟩ (by decide) (by simp [encode, mask_family_kk])

theorem ldVxK (x : Reg) : Statement (.ldVxK x) :=
  of_row ⟨"LD", 0xF00A, 0xF0FF⟩ (by decide) (by simp [encode, mask_family_kk])

theorem ldDtVx (x : Reg) : Statement (.ldDtVx x) :=
  of_row ⟨"LD", 0xF015, 0xF0FF⟩ (by decide) (by simp [encode, mask_family_kk])

theorem ldStVx (x : Reg) : Statement (.ldStVx x) :=
  of_row ⟨"LD", 0xF018, 0xF0FF⟩ (by decide) (by simp [encode, mask_family_kk])

theorem addI (x : Reg) : Statement (.addI x) :=
  of_row ⟨"ADD", 0xF01E, 0xF0FF⟩ (by decide) (by simp [encode, mask_family_kk])

theorem ldF (x : Reg) : Statement (.ldF x) :=
  of_row ⟨"LD", 0xF029, 0xF0FF⟩ (by decide) (by simp [encode, mask_family_kk])

theorem ldB (x : Reg) : Statement (.ldB x) :=
  of_row ⟨"LD", 0xF033, 0xF0FF⟩ (by decide) (by simp [encode, mask_family_kk])

theorem ldMemVx (x : Reg) : Statement (.ldMemVx x) :=
  of_row ⟨"LD", 0xF055, 0xF0FF⟩ (by decide) (by simp [encode, mask_family_kk])

theorem ldVxMem (x : Reg) : Statement (.ldVxMem x) :=
  of_row ⟨"LD", 0xF065, 0xF0FF⟩ (by decide) (by simp [encode, mask_family_kk])

end Sys2Proof.Laws.Recognized
end

