-- ==== Sys2Proof/Tests/Slice0.lean ====
section
/-! SUPPORT. Tests of the model: opcodes and memories the well-formedness checks refuse, the decoding of words written out from
spec/30_encoding.md R84, one step on the vectors of spec/95_test_vectors.md (named in each docstring), and for every obligation
with hypotheses a state and operands that meet them. Expected values are the spec's. -/

namespace Sys2Proof.Tests

open Sys2Proof.Machine Sys2Proof.Safety Sys2Proof.Statements

/-! ## Helpers -/

/-- The key vector with the listed keys pressed. -/
def keysOf (pressed : List (Fin 16)) : Keys := Vector.ofFn fun k => decide (k ∈ pressed)

/-- The reset state with an opcode at 0x200; the next step gets these keys and this random byte. -/
def startWith (op : Nat) (keys : List (Fin 16)) (rnd : Byte) : State :=
  { State.reset.withFetchWord 16 op with inputs := [⟨keysOf keys, rnd⟩] }

/-- The reset state with an opcode at 0x200; the next step gets no key and the random byte 0 (spec/95 conventions). -/
def start (op : Nat) : State := startWith op [] 0

/-- The state after one step (the state itself when the step answers none, which fails the test that asks for a change). -/
def after (s : State) : State :=
  match step s with
  | .next t => t
  | .fault _ | .refused _ => s

/-- A state with one pixel on. -/
def withPixel (r : Fin 32) (c : Fin 64) (s : State) : State :=
  { s with fb := s.fb.set r (s.fb[r].set c true) }

/-- A fault record as 95 writes it. -/
def record (cause : FaultCause) (pc : Word) (op : Option Word) (info : Option Nat) : Option FaultRecord :=
  some ⟨cause, pc, op, info⟩

/-- A halted state. -/
def halted : State := { State.reset with fault := record .stackOverflow 0x200 (some 0x2200) none }

/-! ## Well-formedness: what is refused -/

/-- R85, N1 to N3: family 0x0 but for 00E0 and 00EE. -/
theorem test_illFormed_family0 :
    wellFormedOpcode 0x0000 = false ∧ wellFormedOpcode 0x0123 = false ∧ wellFormedOpcode 0x01E0 = false := by decide

/-- R86, N4 and N5: families 0x5 and 0x9 with nibble3 not 0. -/
theorem test_illFormed_family5_family9 : wellFormedOpcode 0x5121 = false ∧ wellFormedOpcode 0x9121 = false := by decide

/-- R87, N6: family 0x8 with nibble3 8 or F. -/
theorem test_illFormed_family8 : wellFormedOpcode 0x8128 = false ∧ wellFormedOpcode 0x812F = false := by decide

/-- R88, N7: family 0xE with another low byte. -/
theorem test_illFormed_familyE : wellFormedOpcode 0xE19F = false ∧ wellFormedOpcode 0xE1A0 = false := by decide

/-- R89, N8: family 0xF with another low byte. -/
theorem test_illFormed_familyF : wellFormedOpcode 0xF100 = false ∧ wellFormedOpcode 0xF1FF = false := by decide

/-- Each of the 34 rows of R84 selects the word written out from its pattern. -/
theorem test_wellFormed_rows :
    (opcodeMap.zip [0x00E0, 0x00EE, 0x1345, 0x2345, 0x3142, 0x4142, 0x5120, 0x6A2B, 0x7201, 0x8120, 0x8121, 0x8122,
      0x8123, 0x8124, 0x8125, 0x8126, 0x8127, 0x812E, 0x9120, 0xA2F0, 0xB300, 0xC30F, 0xD125, 0xE19E, 0xE1A1, 0xF307,
      0xF30A, 0xF315, 0xF318, 0xF31E, 0xF329, 0xF333, 0xF355, 0xF365]).all (fun p => p.1.selects p.2) = true := by decide

/-- Memory that is not in canonical form: out of order, repeated, an entry equal to the reset contents (a zero byte and a glyph
byte), an address past the memory. -/
theorem test_illFormed_memory :
    ¬ Memory.wf Config.glyphTable [(0x301, 1), (0x300, 1)] ∧ ¬ Memory.wf Config.glyphTable [(0x300, 1), (0x300, 2)] ∧ ¬ Memory.wf Config.glyphTable [(0x300, 0)] ∧
    ¬ Memory.wf Config.glyphTable [(0x050, Config.glyphTable[0])] ∧ ¬ Memory.wf Config.glyphTable [(0x1000, 1)] ∧ Memory.wf Config.glyphTable [(0x04F, 1), (0xFFF, 2)] := by
  decide

/-! ## Decoding: one word per constructor, written out from the patterns of R84 -/

theorem test_decode_fixed : decodeOpcode 0x00E0 = .instr .cls ∧ decodeOpcode 0x00EE = .instr .ret := by decide

theorem test_decode_nnn :
    decodeOpcode 0x1345 = .instr (.jp 0x345) ∧ decodeOpcode 0x2FFE = .instr (.call 0xFFE) ∧
    decodeOpcode 0xA2F0 = .instr (.ldI 0x2F0) ∧ decodeOpcode 0xB301 = .instr (.jpV0 0x301) := by decide

theorem test_decode_xkk :
    decodeOpcode 0x3142 = .instr (.seImm 1 0x42) ∧ decodeOpcode 0x4F80 = .instr (.sneImm 0xF 0x80) ∧
    decodeOpcode 0x6A2B = .instr (.ldImm 0xA 0x2B) ∧ decodeOpcode 0x7201 = .instr (.addImm 2 0x01) ∧
    decodeOpcode 0xC30F = .instr (.rnd 3 0x0F) := by decide

theorem test_decode_xy :
    decodeOpcode 0x5120 = .instr (.seReg 1 2) ∧ decodeOpcode 0x9F30 = .instr (.sneReg 0xF 3) ∧
    decodeOpcode 0x8150 = .instr (.ldReg 1 5) ∧ decodeOpcode 0x8121 = .instr (.orReg 1 2) ∧
    decodeOpcode 0x8122 = .instr (.andReg 1 2) ∧ decodeOpcode 0x8123 = .instr (.xorReg 1 2) := by decide

theorem test_decode_xy_flags :
    decodeOpcode 0x8124 = .instr (.addReg 1 2) ∧ decodeOpcode 0x8125 = .instr (.subReg 1 2) ∧
    decodeOpcode 0x8346 = .instr (.shr 3 4) ∧ decodeOpcode 0x8127 = .instr (.subnReg 1 2) ∧
    decodeOpcode 0x834E = .instr (.shl 3 4) := by decide

theorem test_decode_draw_and_keys :
    decodeOpcode 0xD125 = .instr (.drw 1 2 5) ∧ decodeOpcode 0xE19E = .instr (.skp 1) ∧
    decodeOpcode 0xEFA1 = .instr (.sknp 0xF) ∧ decodeOpcode 0xF30A = .instr (.ldVxK 3) := by decide

theorem test_decode_familyF :
    decodeOpcode 0xF307 = .instr (.ldVxDt 3) ∧ decodeOpcode 0xF315 = .instr (.ldDtVx 3) ∧
    decodeOpcode 0xF318 = .instr (.ldStVx 3) ∧ decodeOpcode 0xF01E = .instr (.addI 0) ∧
    decodeOpcode 0xF229 = .instr (.ldF 2) ∧ decodeOpcode 0xF033 = .instr (.ldB 0) ∧
    decodeOpcode 0xF255 = .instr (.ldMemVx 2) ∧ decodeOpcode 0xF265 = .instr (.ldVxMem 2) := by decide

/-- Unrecognised opcodes are refused under the name of their row of R90. -/
theorem test_decode_unrecognized :
    decodeOpcode 0x0123 = .unrecognized .family0 ∧ decodeOpcode 0x5121 = .unrecognized .family5 ∧
    decodeOpcode 0x8128 = .unrecognized .family8 ∧ decodeOpcode 0x9121 = .unrecognized .family9 ∧
    decodeOpcode 0xE1A0 = .unrecognized .familyE ∧ decodeOpcode 0xF1FF = .unrecognized .familyF := by decide

/-- R52, R80: the first byte is the more significant; later bytes are not read; fewer than two are no opcode. -/
theorem test_decode_bytes :
    decodeBytes [0x6A, 0x2B, 0xFF] = .instr (.ldImm 0xA 0x2B) ∧ decodeBytes [0x6A] = .unrecognized .truncated ∧
    decodeBytes [] = .unrecognized .truncated ∧ encodeBytes (.jp 0x345) = [0x13, 0x45] := by decide

theorem test_decode_tableWord :
    decodeTableWord 16 0xD125 = some (.drw 1 2 5) ∧ decodeTableWord 16 0x0000 = none := by decide

/-- R84, R92: the syntax column; SHR prints no Y and SHL assembles with Y = 0. -/
theorem test_disassemble :
    disassemble (.drw 1 0xF 5) = "DRW V1, VF, 5" ∧ disassemble (.ldImm 0xA 0x2B) = "LD VA, 0x2B" ∧
    disassemble (.jp 0x20C) = "JP 0x20C" ∧ disassemble (.shr 3 4) = "SHR V3" ∧
    disassemble (.ldMemVx 1) = "LD [I], V1" ∧ encode (assembled (.shl 3 4)) = 0x830E := by decide

/-! ## One step: the vectors of spec/95 -/

/-- E2, E5: a fetch at an odd address, and one of the last two bytes. -/
theorem test_fetch_any_alignment :
    (after (({ start 0 with pc := 0x201 }).withFetchWord 16 0x602A)).pc = 0x203 ∧
    (after (({ start 0 with pc := 0xFFE }).withFetchWord 16 0x6001)).pc = 0x1000 ∧
    (after (({ start 0 with pc := 0xFFE }).withFetchWord 16 0x6001)).reg 0 = 1 := by decide

/-- E6, E7: a fetch past the memory. -/
theorem test_fetch_fault :
    (after { start 0 with pc := 0xFFF }).fault = record .memoryRange 0xFFF none (some 0x1000) ∧
    (after { start 0 with pc := 0x1000 }).fault = record .memoryRange 0x1000 none (some 0x1000) := by decide

/-- E3, E4: the timers count down and stop at 0. -/
theorem test_timers_count_down :
    (after { start 0x6000 with dt := 5, st := 1 }).dt = 4 ∧ (after { start 0x6000 with dt := 5, st := 1 }).st = 0 ∧
    (after (start 0x6000)).dt = 0 ∧ (after (start 0x6000)).st = 0 := by decide

/-- E8: a halted step changes nothing, not even the latch. -/
theorem test_halted_step : after { halted with inputs := [⟨keysOf [1], 0⟩] } = { halted with inputs := [⟨keysOf [1], 0⟩] } :=
  rfl

/-- E9: a faulting step writes nothing and decrements nothing. -/
theorem test_fault_is_precise :
    let t := after ({ start 0xF155 with dt := 5, index := 0xFFF }.setReg 0 1 |>.setReg 1 2)
    t.fault = record .memoryRange 0x200 (some 0xF155) (some 0x1000) ∧ t.dt = 5 ∧ t.byteAt 0xFFF = 0 ∧ t.pc = 0x200 := by
  decide

/-- N1, N7: an unrecognised opcode advances `pc` and lets the timers count down. -/
theorem test_unrecognized :
    (after { start 0x0000 with dt := 2 }).pc = 0x202 ∧ (after { start 0x0000 with dt := 2 }).dt = 1 ∧
    (after (start 0xE19F)).fault = none := by decide

/-- W3, D1. -/
theorem test_cls :
    let t := after (withPixel 5 5 (start 0x00E0))
    t.pixel 5 5 = false ∧ t.dirty = true ∧ t.pc = 0x202 ∧ t.takeDirty.1 = true ∧ t.takeDirty.2.takeDirty.1 = false := by
  decide

/-- W4, step 1 and step 2 (the second draw from the state the first leaves, its opcode placed again). -/
theorem test_drw_twice :
    let t := after { start 0xD011 with index := 0x300, mem := [(0x200, 0xD0), (0x201, 0x11), (0x300, 0xFF)] }
    let u := after { t with pc := 0x200, inputs := [⟨keysOf [], 0⟩] }
    t.pixel 0 0 = true ∧ t.pixel 0 7 = true ∧ t.pixel 0 8 = false ∧ t.pixel 1 0 = false ∧ t.reg 0xF = 0 ∧
    u.pixel 0 0 = false ∧ u.pixel 0 7 = false ∧ u.reg 0xF = 1 := by decide

/-- D2: both coordinates wrap for each pixel. -/
theorem test_drw_wraps :
    let t := after ({ start 0xD122 with
      index := 0x300, mem := [(0x200, 0xD1), (0x201, 0x22), (0x300, 0xFF), (0x301, 0x81)] }.setReg 1 62 |>.setReg 2 31)
    t.pixel 31 62 = true ∧ t.pixel 31 5 = true ∧ t.pixel 31 6 = false ∧ t.pixel 0 62 = true ∧ t.pixel 0 5 = true ∧
    t.pixel 0 63 = false := by decide

/-- C1, C2. -/
theorem test_ret :
    (after { start 0x00EE with sp := 1, stack := State.reset.stack.set 0 0x202 }).pc = 0x202 ∧
    (after { start 0x00EE with sp := 1, stack := State.reset.stack.set 0 0x202 }).sp = 0 ∧
    (after (start 0x00EE)).fault = record .stackUnderflow 0x200 (some 0x00EE) none := by decide

/-- C3, C4. -/
theorem test_call :
    (after { start 0x2400 with sp := 15 }).stack[15] = 0x202 ∧ (after { start 0x2400 with sp := 15 }).sp = 16 ∧
    (after { start 0x2400 with sp := 15 }).pc = 0x400 ∧
    (after { start 0x2400 with sp := 16 }).fault = record .stackOverflow 0x200 (some 0x2400) none := by decide

/-- W5, C6. -/
theorem test_jp : (after (start 0x1345)).pc = 0x345 ∧ (after (start 0x1201)).pc = 0x201 := by decide

/-- C11, C12, C13. -/
theorem test_jpV0 :
    (after ((start 0xB300).setReg 0 0x04)).pc = 0x304 ∧ (after ((start 0xBFFF).setReg 0 0xFF)).pc = 0x10FE ∧
    (after ((start 0xB100).setReg 1 9)).pc = 0x100 := by decide

/-- C7, C8. -/
theorem test_skips_immediate :
    (after ((start 0x3342).setReg 3 0x42)).pc = 0x204 ∧ (after ((start 0x3343).setReg 3 0x42)).pc = 0x202 ∧
    (after ((start 0x4342).setReg 3 0x42)).pc = 0x202 ∧ (after ((start 0x4300).setReg 3 0x42)).pc = 0x204 := by decide

/-- C9, C10, and the example of R136. -/
theorem test_skips_register :
    (after (((start 0x5120).setReg 1 7).setReg 2 7)).pc = 0x204 ∧ (after ((start 0x5110).setReg 1 7)).pc = 0x204 ∧
    (after (((start 0x9120).setReg 1 7).setReg 2 7)).pc = 0x202 ∧
    (after (((start 0x9120).setReg 1 7).setReg 2 8)).pc = 0x204 := by decide

/-- A1, A4. -/
theorem test_loads :
    (after (start 0x6A2B)).reg 0xA = 0x2B ∧ (after ((start 0x8150).setReg 5 0x33)).reg 1 = 0x33 := by decide

/-- A2, A3. -/
theorem test_addImm :
    (after (((start 0x7201).setReg 2 0xFF).setReg 0xF 0x33)).reg 2 = 0x00 ∧
    (after (((start 0x7201).setReg 2 0xFF).setReg 0xF 0x33)).reg 0xF = 0x33 ∧
    (after ((start 0x7F01).setReg 0xF 0xFF)).reg 0xF = 0x00 := by decide

/-- A5. -/
theorem test_logic :
    (after (((start 0x8121).setReg 1 0xF0).setReg 2 0x3C)).reg 1 = 0xFC ∧
    (after (((start 0x8122).setReg 1 0xF0).setReg 2 0x3C)).reg 1 = 0x30 ∧
    (after (((start 0x8123).setReg 1 0xF0).setReg 2 0x3C)).reg 1 = 0xCC := by decide

/-- W1, A9. -/
theorem test_addReg :
    (after (((start 0x8124).setReg 1 0xFF).setReg 2 0x01)).reg 1 = 0x00 ∧
    (after (((start 0x8124).setReg 1 0xFF).setReg 2 0x01)).reg 0xF = 1 ∧
    (after (((start 0x8124).setReg 1 0x10).setReg 2 0x20)).reg 0xF = 0 ∧
    (after (((start 0x8F14).setReg 0xF 0xFF).setReg 1 0x01)).reg 0xF = 1 := by decide

/-- W2. -/
theorem test_subReg :
    (after (((start 0x8125).setReg 1 0x05).setReg 2 0x0A)).reg 1 = 0xFB ∧
    (after (((start 0x8125).setReg 1 0x05).setReg 2 0x0A)).reg 0xF = 0 ∧
    (after (((start 0x8125).setReg 1 0x0A).setReg 2 0x05)).reg 0xF = 1 := by decide

/-- The examples of R159, A11. -/
theorem test_subnReg :
    (after (((start 0x8127).setReg 1 0x0A).setReg 2 0x05)).reg 1 = 0xFB ∧
    (after (((start 0x8127).setReg 1 0x0A).setReg 2 0x05)).reg 0xF = 0 ∧
    (after (((start 0x8F17).setReg 0xF 0x05).setReg 1 0x0A)).reg 0xF = 1 := by decide

/-- A12, A13, A14. -/
theorem test_shr :
    (after (((start 0x8346).setReg 3 0x05).setReg 4 0xFF)).reg 3 = 0x02 ∧
    (after (((start 0x8346).setReg 3 0x05).setReg 4 0xFF)).reg 0xF = 1 ∧
    (after ((start 0x8F06).setReg 0xF 0x03)).reg 0xF = 0 := by decide

/-- A15, A16, A18 (both modes). -/
theorem test_shl :
    (after ((start 0x830E).setReg 3 0x81)).reg 3 = 0x02 ∧ (after ((start 0x830E).setReg 3 0x81)).reg 0xF = 0x80 ∧
    (after ((start 0x830E).setReg 3 0x41)).reg 0xF = 0x00 ∧ (after ((start 0x8F0E).setReg 0xF 0x80)).reg 0xF = 0x00 ∧
    (after ({ start 0x8F0E with params := ⟨Config.glyphTable, .normalized⟩ }.setReg 0xF 0x80)).reg 0xF = 0x02 := by decide

/-- A19, A20. -/
theorem test_rnd :
    (after (startWith 0xC30F [] 0xA7)).reg 3 = 0x07 ∧ (after (startWith 0xC3FF [] 0xA7)).reg 3 = 0xA7 := by decide

/-- K1, K2. -/
theorem test_key_skips :
    (after ((startWith 0xE19E [5] 0).setReg 1 5)).pc = 0x204 ∧ (after ((startWith 0xE1A1 [5] 0).setReg 1 5)).pc = 0x202 ∧
    (after ((start 0xE19E).setReg 1 5)).pc = 0x202 ∧ (after ((start 0xE1A1).setReg 1 5)).pc = 0x204 := by decide

/-- K3, K4. -/
theorem test_key_faults :
    (after ((start 0xE19E).setReg 1 0x10)).fault = record .keyIndexRange 0x200 (some 0xE19E) (some 0x10) ∧
    (after ((start 0xE1A1).setReg 1 0xFF)).fault = record .keyIndexRange 0x200 (some 0xE1A1) (some 0xFF) := by decide

/-- K5 to K8. -/
theorem test_timer_transfers :
    (after { start 0xF307 with dt := 0x10 }).reg 3 = 0x10 ∧ (after { start 0xF307 with dt := 0x10 }).dt = 0x0F ∧
    (after ((start 0xF315).setReg 3 0x3C)).dt = 0x3B ∧ (after { start 0xF315 with dt := 9 }).dt = 0 ∧
    (after ((start 0xF318).setReg 3 0x02)).st = 0x01 := by decide

/-- K9, K10, K11 and W8 step 1. -/
theorem test_key_wait :
    (after (startWith 0xF00A [3, 9] 0)).reg 0 = 3 ∧ (after (startWith 0xF00A [3, 9] 0)).pc = 0x202 ∧
    (after (startWith 0xFF0A [0] 0)).reg 0xF = 0 ∧ (after ((start 0xF20A).setReg 2 0x77)).pc = 0x200 ∧
    (after ((start 0xF20A).setReg 2 0x77)).reg 2 = 0x77 ∧ (after { start 0xF50A with dt := 3 }).dt = 2 := by decide

/-- M1, M2, M3. -/
theorem test_index :
    (after (start 0xA2F0)).index = 0x2F0 ∧ (after ({ start 0xF01E with index := 0x0FFF }.setReg 0 0x01)).index = 0x1000 ∧
    (after ({ start 0xF01E with index := 0xFFFF }.setReg 0 0x02)).index = 0x0001 := by decide

/-- W7, M4, M5. -/
theorem test_glyph :
    (after ((start 0xF229).setReg 2 0x0A)).index = 0x082 ∧ (after ((start 0xF229).setReg 2 0x0F)).index = 0x09B ∧
    (after ((start 0xF229).setReg 2 0x10)).fault = record .glyphIndexRange 0x200 (some 0xF229) (some 0x10) := by decide

/-- M6, M8. -/
theorem test_bcd :
    let t := after ({ start 0xF033 with index := 0x300 }.setReg 0 0xFE)
    let u := after ({ start 0xF033 with index := 0xFFD }.setReg 0 0xFF)
    t.byteAt 0x300 = 2 ∧ t.byteAt 0x301 = 5 ∧ t.byteAt 0x302 = 4 ∧ t.index = 0x300 ∧ u.byteAt 0xFFF = 5 := by decide

/-- M9. -/
theorem test_bcd_fault :
    (after { start 0xF033 with index := 0xFFE }).fault = record .memoryRange 0x200 (some 0xF033) (some 0x1000) := by decide

/-- M10, M11. -/
theorem test_dump :
    let t := after ({ start 0xF255 with index := 0x400 }.setReg 0 1 |>.setReg 1 2 |>.setReg 2 3 |>.setReg 3 9)
    t.byteAt 0x400 = 1 ∧ t.byteAt 0x401 = 2 ∧ t.byteAt 0x402 = 3 ∧ t.byteAt 0x403 = 0 ∧ t.index = 0x400 := by decide

/-- M13. -/
theorem test_dump_fault :
    (after { start 0xFF55 with index := 0xFF1 }).fault = record .memoryRange 0x200 (some 0xFF55) (some 0x1000) := by decide

/-- M14. -/
theorem test_load :
    let t := after ({ start 0xF265 with
      index := 0x300, mem := [(0x200, 0xF2), (0x201, 0x65), (0x300, 2), (0x301, 5), (0x302, 4)] }.setReg 3 9)
    t.reg 0 = 2 ∧ t.reg 1 = 5 ∧ t.reg 2 = 4 ∧ t.reg 3 = 9 ∧ t.index = 0x300 := by decide

/-- M15. -/
theorem test_load_all :
    (after { start 0xFF65 with index := 0x300, mem := [(0x200, 0xFF), (0x201, 0x65), (0x30F, 0x77)] }).reg 0xF = 0x77 := by
  decide

/-- M16 and P5, fetch coherence: the bytes stored at 0x202 are the opcode there. -/
theorem test_self_modifying :
    (after ({ start 0xF155 with index := 0x202 }.setReg 0 0x12)).opcodeAtPc = 0x1200 := by decide

/-- R7, R33: another GLYPH_TABLE is what the glyph region holds after reset and what DXYN draws from it. -/
theorem test_other_glyphTable :
    let s := State.resetWith ⟨Vector.replicate 80 0x01, .raw⟩
    let t := after { s.withFetchWord 16 0xD011 with index := 0x09F, inputs := [⟨keysOf [], 0⟩] }
    s.byteAt 0x050 = 0x01 ∧ s.byteAt 0x09F = 0x01 ∧ s.byteAt 0x0A0 = 0 ∧ t.pixel 0 7 = true ∧ t.pixel 0 0 = false := by
  decide

/-- H3: Load does not clear a fault, and the step changes nothing. -/
theorem test_load_while_halted :
    (halted.load [0x60, 0x01]).opcodeAtPc = 0x6001 ∧ after (halted.load [0x60, 0x01]) = halted.load [0x60, 0x01] := by
  decide

/-- H4, H7, R242: ReadFault and Reset while halted, and no Load before the first Reset. -/
theorem test_host :
    halted.readFault = record .stackOverflow 0x200 (some 0x2200) none ∧ faultCode halted.readFault = 2 ∧
    halted.resetAgain = State.reset ∧ transact (.load [0x60]) (.inl Config.params) = .refused .beforeReset := ⟨rfl, rfl, rfl, rfl⟩

/-! ## The hypotheses of the obligations can be met

For each obligation with hypotheses, in the order of Obligations.lean, a state and operands that meet those of each clause
together, at the ends of the clause's range. -/

/-- A running state past an instruction at 0x200, as a meaning sees it. -/
def inHandler : State := { State.reset with pc := 0x202 }

/-- The answer of a meaning is a next state. -/
def answers (i : Instr) (s : State) : Bool :=
  match exec i s with
  | .next _ => true
  | .fault _ | .refused _ => false

theorem test_meets_ResetInstallsSpecState :
    (0x04F < 0x1000 ∧ ¬ (0x050 ≤ 0x04F ∧ 0x04F < 0x0A0)) ∧ (0xFFF < 0x1000 ∧ ¬ (0x050 ≤ 0xFFF ∧ 0xFFF < 0x0A0)) := by
  decide

theorem test_meets_EncodeOfDecodeIsIdentity : decodeOpcode 0xFF65 = .instr (.ldVxMem 0xF) := by decide

theorem test_meets_DecodingFollowsOpcodeMap :
    ∃ row ∈ opcodeMap, (0x812E : Word) &&& row.mask = row.matchBits :=
  ⟨⟨"SHL", 0x800E, 0xF00F⟩, by decide, by decide⟩

theorem test_meets_StepRunsDecodedInstruction :
    (Running (start 0x6A2B) ∧ (start 0x6A2B).pc.toNat + 2 ≤ 0x1000 ∧
      decodeBytes [(start 0x6A2B).byteAt 0x200, (start 0x6A2B).byteAt 0x201] = .instr (.ldImm 0xA 0x2B)) ∧
    ∃ t, exec (.ldImm 0xA 0x2B) ((start 0x6A2B).latch.setPc 0x202) = .next t ∧ Running t :=
  ⟨by decide, _, rfl, by decide⟩

theorem test_meets_StepRunsDecodedInstruction_raising :
    (Running (start 0x00EE) ∧ (start 0x00EE).pc.toNat + 2 ≤ 0x1000 ∧
      decodeBytes [(start 0x00EE).byteAt 0x200, (start 0x00EE).byteAt 0x201] = .instr .ret) ∧
    ∃ t, exec .ret ((start 0x00EE).latch.setPc 0x202) = .next t ∧ ¬ Running t :=
  ⟨by decide, _, rfl, by decide⟩

theorem test_meets_UnrecognizedOpcodeOnlyAdvances :
    decodeOpcode 0x00E0 = .instr .cls ∧
    (Running (start 0x00E1) ∧ (start 0x00E1).pc.toNat + 2 ≤ 0x1000 ∧
      decodeOpcode (start 0x00E1).opcodeAtPc = .unrecognized .family0) := by decide

theorem test_meets_FetchReadsBigEndianOrFaults :
    (Running { start 0 with pc := 0xFFF } ∧ 0x1000 ≤ ({ start 0 with pc := 0xFFF } : State).pc.toNat + 1) ∧
    (Running { start 0 with pc := 0x1000 } ∧ 0x1000 ≤ ({ start 0 with pc := 0x1000 } : State).pc.toNat + 1) := by decide

theorem test_meets_HaltedStepChangesNothing : halted.fault ≠ none := by decide

theorem test_meets_StepLatchesItsInputs : Running State.reset ∧ Running (start 0xFF55) := by decide

/-- The clause of a faulting step (with timers that could count down), and the three of a running one that hold no timer write. -/
theorem test_meets_TimersCountDownEachStep :
    (∃ t, step { start 0x00EE with dt := 5, st := 1 } = .next t ∧ ¬ Running t) ∧
    (∃ t, step { start 0x6A2B with dt := 1, st := 0 } = .next t ∧ Running t) ∧
    (∀ x, decodeOpcode (start 0x6A2B).opcodeAtPc ≠ .instr (.ldDtVx x)) ∧
    (∀ x, decodeOpcode (start 0x6A2B).opcodeAtPc ≠ .instr (.ldStVx x)) :=
  ⟨⟨_, rfl, by decide⟩, ⟨_, rfl, by decide⟩, by decide, by decide⟩

theorem test_meets_TimersCountDownEachStep_written :
    (∃ t, step (start 0xF315) = .next t ∧ Running t) ∧ decodeOpcode (start 0xF315).opcodeAtPc = .instr (.ldDtVx 3) ∧
    (∃ t, step (start 0xFF18) = .next t ∧ Running t) ∧
    decodeOpcode (start 0xFF18).opcodeAtPc = .instr (.ldStVx 0xF) :=
  ⟨⟨_, rfl, by decide⟩, by decide, ⟨_, rfl, by decide⟩, by decide⟩

theorem test_meets_PcAfterStepFollowsTable :
    (Running (start 0x3000) ∧ ∃ t, step (start 0x3000) = .next t ∧ Running t) ∧
    decodeOpcode (start 0x3000).opcodeAtPc = .instr (.seImm 0 0) ∧
    (Running (start 0xF000) ∧ ∃ t, step (start 0xF000) = .next t ∧ Running t) ∧
    decodeOpcode (start 0xF000).opcodeAtPc = .unrecognized .familyF :=
  ⟨⟨by decide, _, rfl, by decide⟩, by decide, ⟨by decide, _, rfl, by decide⟩, by decide⟩

theorem test_meets_TimersCountSteps :
    (∃ t : State, Host.Core.run Sys2Proof.core 1 { start 0x6A2B with dt := 5 } = .next t ∧ Running t) ∧
    ∀ j < 1, ∀ u : State, Host.Core.run Sys2Proof.core j { start 0x6A2B with dt := 5 } = .next u →
      (∀ x, decodeOpcode u.opcodeAtPc ≠ .instr (.ldDtVx x)) ∧ ∀ x, decodeOpcode u.opcodeAtPc ≠ .instr (.ldStVx x) := by
  refine ⟨⟨_, rfl, by decide⟩, ?_⟩
  intro j hj u hu
  obtain rfl : j = 0 := by omega
  cases hu
  decide

theorem test_meets_StepsWithoutLoadReachMemoryEnd : 0 ≤ 1792 ∧ 1792 ≤ 1792 := by decide

/-- An instruction's fault and a fetch's; each row of the table at the first value that raises and the last that does not. -/
theorem test_meets_FaultsAreTheTables :
    Running inHandler ∧ (Running { inHandler with pc := 0xFFF } ∧ 0x1000 ≤ ({ inHandler with pc := 0xFFF } : State).pc.toNat + 1) ∧
    expectedFault { inHandler with index := 0xFFF } (.drw 0 0 1) = none ∧
    expectedFault { inHandler with index := 0x1000 } (.drw 0 0 1) = some (.memoryRange, some 0x1000) ∧
    expectedFault { inHandler with index := 0x1005 } (.drw 0 0 0) = none ∧
    expectedFault { inHandler with index := 0xFFE } (.ldB 0) = some (.memoryRange, some 0x1000) ∧
    expectedFault { inHandler with index := 0x1FFF } (.ldVxMem 0) = some (.memoryRange, some 0x1FFF) ∧
    expectedFault (inHandler.setReg 1 15) (.skp 1) = none ∧
    expectedFault (inHandler.setReg 1 16) (.sknp 1) = some (.keyIndexRange, some 16) ∧
    expectedFault (inHandler.setReg 1 16) (.ldF 1) = some (.glyphIndexRange, some 16) := by decide

/-- Each row of R90 has an opcode that meets its condition. -/
theorem test_meets_UnrecognizedByTable :
    UnrecognizedByTable 0x0000 ∧ UnrecognizedByTable 0x5001 ∧ UnrecognizedByTable 0x8008 ∧ UnrecognizedByTable 0x9FFF ∧
    UnrecognizedByTable 0xE09F ∧ UnrecognizedByTable 0xFFFF ∧ ¬ UnrecognizedByTable 0x00EE ∧
    ¬ UnrecognizedByTable 0x800E := by
  simp [UnrecognizedByTable]

theorem test_meets_FaultEntryIsPrecise :
    (Running (start 0x00EE) ∧ ∃ t, step (start 0x00EE) = .next t ∧ ¬ Running t) ∧
    Running { start 0 with pc := 0xFFF } ∧ ∃ t, step { start 0 with pc := 0xFFF } = .next t ∧ ¬ Running t :=
  ⟨⟨by decide, _, rfl, by decide⟩, by decide, _, rfl, by decide⟩

theorem test_meets_FaultStaysUntilReset :
    halted.fault ≠ none ∧ Transaction.load [0x60] ≠ .reset ∧ Transaction.step (keysOf [1]) 0 ≠ .reset := by decide

theorem test_meets_StepKeepsMemoryCanonical :
    MemoryCanonical { start 0xF055 with index := 0xFFF } ∧
    ∃ t, step ({ start 0xF055 with index := 0xFFF }.setReg 0 7) = .next t ∧ t.byteAt 0xFFF = 7 :=
  ⟨by decide, _, rfl, by decide⟩

theorem test_meets_StepKeepsAddressesBounded :
    AddressesBounded { start 0 with pc := 0x10FE, stack := Vector.replicate 16 0x1000 } ∧
    ∃ t, step { start 0 with pc := 0x10FE, stack := Vector.replicate 16 0x1000 } = .next t :=
  ⟨by decide, _, rfl⟩

theorem test_meets_StepKeepsFaultConsistent :
    FaultConsistent halted ∧ (∃ t, step halted = .next t) ∧
    FaultConsistent (start 0x00EE) ∧ ∃ t, step (start 0x00EE) = .next t ∧ ¬ Running t := by
  refine ⟨?_, ⟨_, rfl⟩, ?_, _, rfl, by decide⟩
  · intro r h
    cases h
    decide
  · intro r h
    cases h

/-- A sprite that fits (its last byte at 0xFFF), one of no rows past the memory, and one that does not fit. -/
theorem test_meets_DrwXorsSprite :
    ({ inHandler with index := 0xFF1 } : State).index.toNat + (0xF : Nibble).toNat ≤ 0x1000 ∧
    ((0 : Nibble) = 0 ∧ ({ inHandler with index := 0x1005 } : State).index.toNat > 0x1000) ∧
    ((0xF : Nibble) ≠ 0 ∧ ({ inHandler with index := 0xFF2 } : State).index.toNat + (0xF : Nibble).toNat > 0x1000) := by
  decide

/-- D8's sprite covers row 0, column 10 (the coordinate is the old `x[0xF]`) and not column 11. -/
theorem test_meets_DrwXorsSprite_covers :
    let s : State := { inHandler with index := 0x300, mem := [(0x300, 0x80)] }.setReg 0xF 10
    SpriteCovers 0xF 1 1 s 0 10 ∧ ¬ SpriteCovers 0xF 1 1 s 0 11 := by
  refine ⟨⟨0, 0, by decide⟩, ?_⟩
  rintro ⟨row, col, hrow, hcol, _, hc, hb⟩
  have hr : row = 0 := Nat.lt_one_iff.mp hrow
  subst hr
  have : ∀ col < 8, (10 + col) % 64 = 11 → (0x80 : Byte).getLsbD (7 - col) = false := by decide
  have hb' : (0x80 : Byte).getLsbD (7 - col) = true := hb
  rw [this col hcol hc] at hb'
  cases hb'

/-- A collision (D4's screen with the sprite of W4) and none. -/
theorem test_meets_DrwXorsSprite_collision :
    let s : State := { inHandler with index := 0x300, mem := [(0x300, 0xFF)] }
    (∃ r c, SpriteCovers 0 1 1 (withPixel 0 7 s) r c ∧ (withPixel 0 7 s).pixel r c = true) ∧
    ¬ ∃ r c, SpriteCovers 0 1 1 s r c ∧ s.pixel r c = true := by
  refine ⟨⟨0, 7, ⟨0, 7, by decide⟩, by decide⟩, ?_⟩
  rintro ⟨r, c, -, h⟩
  have : ∀ r c, State.reset.pixel r c = false := by
    intro r c
    simp [State.pixel, State.reset, State.resetWith]
  have h' : State.reset.pixel r c = true := h
  rw [this] at h'
  cases h'

theorem test_meets_DrawingTwiceRestores :
    (0 : Reg) ≠ regF ∧ (14 : Reg) ≠ regF ∧ ({ inHandler with index := 0xFF1 } : State).index.toNat + (0xF : Nibble).toNat ≤ 0x1000 := by
  decide

theorem test_meets_RetPopsReturnAddress :
    ({ inHandler with sp := 1 } : State).sp.val = (0 : Fin 16).val + 1 ∧
    ({ inHandler with sp := 16 } : State).sp.val = (15 : Fin 16).val + 1 ∧ inHandler.sp = 0 := by decide

theorem test_meets_CallPushesReturnAddress :
    inHandler.sp.val = (0 : Fin 16).val ∧ ({ inHandler with sp := 15 } : State).sp.val = (15 : Fin 16).val ∧
    ({ inHandler with sp := 16 } : State).sp = 16 := by decide

theorem test_meets_CallThenReturnRestores :
    (inHandler.sp.val < 16 ∧ (15 : Fin 16).val ≠ inHandler.sp.val ∧ (0 : Fin 16).val = inHandler.sp.val) ∧
    ({ inHandler with sp := 15 } : State).sp.val < 16 ∧
    (14 : Fin 16).val ≠ ({ inHandler with sp := 15 } : State).sp.val ∧
    (15 : Fin 16).val = ({ inHandler with sp := 15 } : State).sp.val := by decide

/-- Each mode, with the destination 0xF and another. -/
theorem test_meets_ShiftLeftFlagsHighBit :
    inHandler.params.shlFlagMode = .raw ∧
    ({ inHandler with params := ⟨Config.glyphTable, .normalized⟩ } : State).params.shlFlagMode = .normalized ∧
    (14 : Reg) ≠ regF ∧ (15 : Reg) = regF := by decide

theorem test_meets_ParametersNeverChange :
    (∃ t, step (start 0x834E) = .next t) ∧ ∃ t, inHandler.serve .reset = .next (t, .done) := ⟨⟨_, rfl⟩, _, rfl⟩

/-- Both sides of each condition: the two register values equal and not, and the destination register 0xF and another. -/
theorem test_meets_flags_and_skips :
    ((inHandler.setReg 3 0x42).reg 3).toNat = (0x42 : Byte).toNat ∧ ((inHandler.setReg 3 0x42).reg 3).toNat ≠ (0x43 : Byte).toNat ∧
    ((0 : Reg) ≠ regF ∧ (14 : Reg) ≠ regF) ∧ (15 : Reg) = regF := by decide

theorem test_meets_KeySkipsReadLatch :
    ((inHandler.setReg 1 0).reg 1).toNat = (0 : Fin 16).val ∧ ((inHandler.setReg 1 15).reg 1).toNat = (15 : Fin 16).val ∧
    ((inHandler.setReg 1 16).reg 1).toNat > 15 ∧ ((inHandler.setReg 1 255).reg 1).toNat > 15 := by decide

theorem test_meets_KeyWaitTakesLeastKey :
    (({ inHandler with keypad := keysOf [0, 9] } : State).key 0 = true ∧
      ∀ j < (0 : Fin 16), ({ inHandler with keypad := keysOf [0, 9] } : State).key j = false) ∧
    (({ inHandler with keypad := keysOf [15] } : State).key 15 = true ∧
      ∀ j < (15 : Fin 16), ({ inHandler with keypad := keysOf [15] } : State).key j = false) ∧
    ∀ k, inHandler.key k = false := by decide

theorem test_meets_GlyphAddressIsFiveTimesDigit :
    ((inHandler.setReg 2 15).reg 2).toNat ≤ 15 ∧ ((inHandler.setReg 2 16).reg 2).toNat > 15 := by decide

theorem test_meets_BcdStoresThreeDigits :
    ({ inHandler with index := 0xFFD } : State).index.toNat + 3 ≤ 0x1000 ∧
    ({ inHandler with index := 0xFFE } : State).index.toNat + 3 > 0x1000 := by decide

/-- The hypotheses of RegisterDumpStoresBlock and of RegisterLoadReadsBlock, for X = 0 and X = 15. -/
theorem test_meets_RegisterBlocks :
    ({ inHandler with index := 0xFFF } : State).index.toNat + (0 : Reg).val + 1 ≤ 0x1000 ∧
    ({ inHandler with index := 0xFF0 } : State).index.toNat + (15 : Reg).val + 1 ≤ 0x1000 ∧
    ({ inHandler with index := 0x1000 } : State).index.toNat + (0 : Reg).val + 1 > 0x1000 ∧
    ({ inHandler with index := 0xFF1 } : State).index.toNat + (15 : Reg).val + 1 > 0x1000 ∧
    ((0 : Reg) ≤ 0 ∧ (1 : Reg) > 0) ∧ (15 : Reg) ≤ 15 := by decide

theorem test_meets_StoredBytesAreFetched :
    let s : State := { inHandler with index := 0x202 }
    1 ≤ (1 : Reg).val ∧ s.index.toNat + (1 : Reg).val + 1 ≤ 0x1000 ∧ s.pc = s.index := by decide

/-- OnlyDestinationRegistersChange, OnlyNamedWritersChangeState, OnlyRndReadsRandomByte and OnlyShlReadsFlagMode: an answer, of an instruction that is
none of the named writers and one that is. -/
theorem test_meets_OnlyNamedWritersChangeState :
    (∃ t, exec (.addReg 1 2) inHandler = .next t) ∧ (∃ t, exec (.call 0x300) inHandler = .next t) ∧
    ¬ writesIndex (.addReg 1 2) ∧ ¬ writesDisplay (.addReg 1 2) ∧ ¬ writesMemory (.addReg 1 2) ∧
    (∀ x kk, Instr.addReg 1 2 ≠ .rnd x kk) ∧ (∀ x y, Instr.addReg 1 2 ≠ .shl x y) ∧ writesIndex (.addI 1) ∧ writesDisplay .cls ∧ writesMemory (.ldB 0) := by
  refine ⟨⟨_, rfl⟩, ⟨_, rfl⟩, ?_, ?_, ?_, ?_, ?_, .inr (.inl ⟨1, rfl⟩), .inl rfl, .inl ⟨0, rfl⟩⟩
  · rintro (⟨_, h⟩ | ⟨_, h⟩ | ⟨_, h⟩) <;> cases h
  · rintro (h | ⟨_, _, _, h⟩) <;> cases h
  · rintro (⟨_, h⟩ | ⟨_, h⟩) <;> cases h
  · intro x kk h
    cases h
  · intro x y h
    cases h

theorem test_meets_SoundTimerAndDirtyAreUnread : ∃ t, step (start 0xD125) = .next t := ⟨_, rfl⟩

theorem test_meets_StackAboveSpIsUnread :
    (State.reset.sp.val ≤ (0 : Fin 16).val ∧ ∃ t, step (start 0x2400) = .next t ∧ (0 : Fin 16).val < t.sp.val) ∧
    ({ start 0x00EE with sp := 15 } : State).sp.val ≤ (15 : Fin 16).val ∧
    ∃ t, step { start 0x00EE with sp := 15 } = .next t :=
  ⟨⟨by decide, _, rfl, by decide⟩, by decide, _, rfl⟩

/-- A byte that is copied and, past 3584 bytes, one that is not. -/
theorem test_meets_LoadCopiesTruncated :
    (0 < [(0x60 : Byte), 0x01].length ∧ 0 < 3584) ∧ 3583 < (List.replicate 4000 (0xAB : Byte)).length ∧
    3584 < (List.replicate 4000 (0xAB : Byte)).length := by
  rw [List.length_replicate]
  decide

theorem test_meets_ResetStartsAnew : Transaction.snapshot ≠ .reset ∧ Transaction.load [] ≠ .reset := by decide

/-- The meanings whose statements have no hypotheses answer a next state in a plain state. -/
theorem test_plain_answers :
    [Instr.cls, .jp 0x300, .jpV0 0x300, .seImm 0 0, .sneImm 0 0, .seReg 0 0, .sneReg 0 0, .ldImm 0 0, .addImm 0 0,
      .ldReg 0 0, .orReg 0 0, .andReg 0 0, .xorReg 0 0, .addReg 0 0, .subReg 0 0, .shr 0 0, .subnReg 0 0, .shl 0 0,
      .ldI 0, .rnd 0 0, .ldVxDt 0, .ldDtVx 0, .ldStVx 0, .addI 0].all (fun i => answers i inHandler) = true := by decide

end Sys2Proof.Tests
end

/-! PROOFS. The parameters of a CORE (R7): nothing changes them (O25), and of the instructions only SHL depends on
SHL_FLAG_MODE (O56). A fault is a next state too, so both are said of every branch of every handler. -/

namespace Sys2Proof.Machine

/-! ## What leaves the parameters as they are -/

@[simp] theorem State.skipIf_params (s : State) (c : Bool) : (s.skipIf c).params = s.params := by
  cases c <;> rfl

@[simp] theorem State.loadRegs_params (s : State) (a : Nat) (x : Reg) : (s.loadRegs a x).params = s.params := by
  obtain ⟨_, h⟩ := s.loadRegs_rest a x
  rw [h]

theorem State.pop_params {s t : State} {a : Word} (h : s.pop = some (a, t)) : t.params = s.params := by
  obtain ⟨_, _, rfl⟩ := State.pop_eq_some.1 h
  rfl

theorem State.push_params {s t : State} {a : Word} (h : s.push a = some t) : t.params = s.params := by
  obtain ⟨_, rfl⟩ := State.push_eq_some.1 h
  rfl

theorem State.finish_params_of_eq {s0 t : State} (h : t.params = s0.params) :
    (s0.finish t).params = s0.params := by
  cases hf : t.fault with
  | none => rw [State.finish_running hf, State.decrementTimers_params, h]
  | some r => rw [State.finish_faulted (by simp [hf])]

/-- A handler answers the parameters it was given. -/
theorem exec_params {i : Instr} {s t : State} (h : exec i s = .next t) : t.params = s.params := by
  cases i with
  | ret =>
    simp only [exec, execRet] at h
    split at h <;> cases h
    · rfl
    · next u hu => exact (u.setPc_params _).trans (State.pop_params hu)
  | call nnn =>
    simp only [exec, execCall] at h
    split at h <;> cases h
    · rfl
    · next u hu => exact (u.setPc_params _).trans (State.push_params hu)
  | seImm | sneImm | seReg | sneReg => cases h; exact s.skipIf_params _
  | skp | sknp | ldF | drw | ldB | ldMemVx | ldVxMem =>
    simp only [exec, execSkp, execSknp, execLdF, execDrw, execLdB, execLdMemVx, execLdVxMem, raise_eq] at h
    split at h <;> cases h <;> simp
  | ldVxK =>
    cases h
    split <;> rfl
  | _ => cases h; rfl

/-- A step answers the parameters it was given. -/
theorem step_params {s t : State} (h : step s = .next t) : t.params = s.params := by
  obtain ⟨-, rfl⟩ | ⟨-, _, -, rfl⟩ | ⟨-, -, ⟨i, u, -, hu, rfl⟩ | ⟨_, -, rfl⟩⟩ := step_cases h
  · rfl
  · rfl
  · exact State.finish_params_of_eq (exec_params hu :)
  · rfl

theorem State.stepWith_params {s t : State} {keys : Keys} {rnd : Byte} (h : s.stepWith keys rnd = .next t) :
    t.params = s.params := by
  unfold State.stepWith at h
  split at h <;> cases h
  next u hu => exact (step_params hu :)

/-- A transaction answers the parameters it was given. -/
theorem State.serve_params {tr : Transaction} {s t : State} {resp : Response} (h : s.serve tr = .next (t, resp)) :
    t.params = s.params := by
  cases tr with
  | step keys rnd =>
    simp only [State.serve] at h
    split at h <;> cases h
    next hu => exact State.stepWith_params hu
  | reset | load | snapshot | takeDirty | readFault => cases h; rfl

/-! ## The same state under another SHL_FLAG_MODE -/

/-- `s` with SHL_FLAG_MODE `mode` and everything else as it is. -/
def State.withFlagMode (mode : ShlFlagMode) (s : State) : State :=
  { s with params := ⟨s.params.glyphTable, mode⟩ }

variable (mode : ShlFlagMode) (s : State)

@[simp] theorem State.withFlagMode_index : (s.withFlagMode mode).index = s.index := rfl
@[simp] theorem State.withFlagMode_pc : (s.withFlagMode mode).pc = s.pc := rfl
@[simp] theorem State.withFlagMode_keypad : (s.withFlagMode mode).keypad = s.keypad := rfl
@[simp] theorem State.withFlagMode_reg (r : Reg) : (s.withFlagMode mode).reg r = s.reg r := rfl
@[simp] theorem State.withFlagMode_key (k : Fin 16) : (s.withFlagMode mode).key k = s.key k := rfl

@[simp] theorem State.withFlagMode_skipIf (c : Bool) :
    (s.withFlagMode mode).skipIf c = (s.skipIf c).withFlagMode mode := by
  cases c <;> rfl

@[simp] theorem State.withFlagMode_pop :
    (s.withFlagMode mode).pop = s.pop.map fun p => (p.1, p.2.withFlagMode mode) := by
  by_cases h : 0 < s.sp.val <;> simp [State.pop, State.withFlagMode, h]

@[simp] theorem State.withFlagMode_push (a : Word) :
    (s.withFlagMode mode).push a = (s.push a).map (State.withFlagMode mode) := by
  by_cases h : s.sp.val < 16 <;> simp [State.push, State.withFlagMode, h]

@[simp] theorem State.withFlagMode_loadRegs (a : Nat) (x : Reg) :
    (s.withFlagMode mode).loadRegs a x = (s.loadRegs a x).withFlagMode mode :=
  List.foldl_hom (State.withFlagMode mode) fun _ _ => rfl

/-- An answer of a handler other than SHL's is, under another SHL_FLAG_MODE, the same answer but for that parameter. -/
theorem exec_withFlagMode {i : Instr} {t : State} (hi : ∀ x y, i ≠ .shl x y) (h : exec i s = .next t) :
    exec i (s.withFlagMode mode) = .next (t.withFlagMode mode) := by
  cases i with
  | shl x y => exact absurd rfl (hi x y)
  | ret =>
    simp only [exec, execRet, State.withFlagMode_pop] at h ⊢
    split at h <;> next hu => cases h; rw [hu]; rfl
  | call nnn =>
    simp only [exec, execCall, State.withFlagMode_push, State.withFlagMode_pc] at h ⊢
    split at h <;> next hu => cases h; rw [hu]; rfl
  | seImm | sneImm | seReg | sneReg =>
    cases h
    exact congrArg Host.Outcome.next (s.withFlagMode_skipIf mode _)
  | skp | sknp | ldF =>
    simp only [exec, execSkp, execSknp, execLdF, State.withFlagMode_reg, State.withFlagMode_key,
      State.withFlagMode_skipIf] at h ⊢
    split at h <;> cases h <;> rfl
  | drw | ldB | ldMemVx | ldVxMem =>
    simp only [exec, execDrw, execLdB, execLdMemVx, execLdVxMem, State.withFlagMode_index,
      State.withFlagMode_loadRegs] at h ⊢
    split at h <;> cases h <;> rfl
  | ldVxK x =>
    cases h
    simp only [exec, execLdVxK, State.withFlagMode_keypad]
    split <;> rfl
  | _ => cases h; rfl

end Sys2Proof.Machine

namespace Sys2Proof.Proofs

open Sys2Proof.Machine

/-- Settles O25: a step keeps the parameters because every handler does, and Step is the one transaction that runs one. -/
theorem parametersNeverChange : Obligations.ParametersNeverChange :=
  ⟨fun _ _ => step_params, fun _ _ _ _ => State.serve_params⟩

/-- Settles O56: every operation a handler other than SHL's is made of commutes with the change of SHL_FLAG_MODE. -/
theorem onlyShlReadsFlagMode : Obligations.OnlyShlReadsFlagMode :=
  fun _ s _ mode hi => exec_withFlagMode mode s hi

end Sys2Proof.Proofs

/-! PROOFS. The elements of state one by one (10_state): what each handler writes (O52, O53), where `pc` ends (O14), how high
addresses get (O22), and the elements no instruction reads (O54, O57). All of them rest on `exec_cases`. -/

namespace Sys2Proof.Machine

open Sys2Proof.Safety Sys2Proof.Statements

/-! ## What a handler and a step can do -/

/-- What the handler of an instruction leaves of `s` when it raises no fault, with the condition under which it raises none.
The instructions that R211 gives no fault never raise: their row is the handler itself. -/
def Answers (s : State) : Instr → State → Prop
  | .ret, t => ∃ h : 0 < s.sp.val, t = { s with sp := ⟨s.sp.val - 1, by omega⟩, pc := s.stack[s.sp.val - 1] }
  | .call nnn, t => ∃ h : s.sp.val < 16,
      t = { s with stack := s.stack.set s.sp.val s.pc, sp := ⟨s.sp.val + 1, by omega⟩, pc := zextAddr nnn }
  | .skp x, t => ∃ k : Fin 16, (s.reg x).toNat = k.val ∧ t = s.skipIf (s.key k)
  | .sknp x, t => ∃ k : Fin 16, (s.reg x).toNat = k.val ∧ t = s.skipIf (!s.key k)
  | .ldF x, t => ∃ a, glyphAddress (s.reg x) = some a ∧ t = s.setIndex a
  | .drw x y n, t => outOfRange s.index.toNat n.toNat = none ∧ t = s.show
      (drawSprite s.params.glyphTable s.mem s.index.toNat (s.reg x).toNat (s.reg y).toNat n.toNat ⟨s.fb, false⟩)
  | .ldB x, t => outOfRange s.index.toNat 3 = none ∧ t = s.storeBytes s.index.toNat (bcdDigits (s.reg x))
  | .ldMemVx x, t => outOfRange s.index.toNat (x.val + 1) = none ∧ t = s.storeBytes s.index.toNat (s.regBlock x)
  | .ldVxMem x, t => outOfRange s.index.toNat (x.val + 1) = none ∧ t = s.loadRegs s.index.toNat x
  | i, t => exec i s = .next t

/-- Everything a handler can do: raise a fault of its own instruction, or answer. -/
theorem exec_cases {i : Instr} {s t : State} (h : exec i s = .next t) :
    (∃ cause info, t = s.enterFault cause (s.pc - 2) (some (encode i)) info) ∨ Answers s i t := by
  cases i with
  | ret =>
    simp only [exec, execRet] at h
    split at h <;> cases h
    · exact .inl ⟨_, _, rfl⟩
    · next u hu =>
      obtain ⟨hsp, rfl, rfl⟩ := State.pop_eq_some.1 hu
      exact .inr ⟨hsp, rfl⟩
  | call nnn =>
    simp only [exec, execCall] at h
    split at h <;> cases h
    · exact .inl ⟨_, _, rfl⟩
    · next u hu =>
      obtain ⟨hsp, rfl⟩ := State.push_eq_some.1 hu
      exact .inr ⟨hsp, rfl⟩
  | skp | sknp =>
    simp only [exec, execSkp, execSknp] at h
    split at h <;> cases h
    · exact .inl ⟨_, _, rfl⟩
    · next k hk => exact .inr ⟨k, keyIndex_eq_some.1 hk, rfl⟩
  | ldF =>
    simp only [exec, execLdF] at h
    split at h <;> cases h
    · exact .inl ⟨_, _, rfl⟩
    · next a ha => exact .inr ⟨a, ha, rfl⟩
  | drw | ldB | ldMemVx | ldVxMem =>
    simp only [exec, execDrw, execLdB, execLdMemVx, execLdVxMem] at h
    split at h <;> cases h
    · exact .inl ⟨_, _, rfl⟩
    · next hm => exact .inr ⟨hm, rfl⟩
  | _ => exact .inr h

/-- A skip changes nothing but `pc`. -/
theorem State.skipIf_rest (s : State) (c : Bool) : ∃ p, s.skipIf c = s.setPc p := by
  obtain ⟨-, h⟩ | ⟨-, h⟩ := s.skipIf_cases c
  · exact ⟨s.pc + 2, h⟩
  · exact ⟨s.pc, h⟩

@[simp] theorem State.skipIf_pc (s : State) (c : Bool) : (s.skipIf c).pc = if c then s.pc + 2 else s.pc := by
  cases c <;> rfl

@[simp] theorem State.skipIf_reg (s : State) (c : Bool) (r : Reg) : (s.skipIf c).reg r = s.reg r := by
  cases c <;> rfl

theorem State.finish_cases (s0 u : State) :
    (u.fault = none ∧ s0.finish u = u.decrementTimers) ∨
    (u.fault.isSome ∧ s0.finish u = { s0 with fault := u.fault }) := by
  cases h : u.fault with
  | none => exact .inl ⟨rfl, State.finish_running h⟩
  | some f => exact .inr ⟨rfl, h ▸ State.finish_faulted (by simp [h])⟩

/-! ## The step, by what it meets at `pc` -/

theorem step_of_halted {s : State} (hf : s.fault.isSome) : step s = .next s := by
  simp [step, cycle, hf]

theorem step_of_fetch_fault {s : State} {a : Nat} (hf : s.fault = none) (ha : outOfRange s.pc.toNat 2 = some a) :
    step s = .next (s.latch.enterFault .memoryRange s.pc none (some a)) := by
  simp [step, cycle, hf, ha]

theorem step_of_execOpcode {s u : State} (hf : s.fault = none) (hm : outOfRange s.pc.toNat 2 = none)
    (hu : execOpcode s.opcodeAtPc (s.latch.setPc (s.pc + 2)) = .next u) : step s = .next (s.latch.finish u) := by
  have hop : s.latch.opcodeAtPc = s.opcodeAtPc := rfl
  simp only [step, cycle, State.latch_pc, hf, hm, hop, hu]
  rfl

theorem step_of_instr {s u : State} {i : Instr} (hf : s.fault = none) (hm : outOfRange s.pc.toNat 2 = none)
    (hi : decodeOpcode s.opcodeAtPc = .instr i) (hu : exec i (s.latch.setPc (s.pc + 2)) = .next u) :
    step s = .next (s.latch.finish u) :=
  step_of_execOpcode hf hm (by rw [execOpcode, hi]; exact hu)

theorem step_of_unrecognized {s : State} {w : Unrecognized} (hf : s.fault = none) (hm : outOfRange s.pc.toNat 2 = none)
    (hw : decodeOpcode s.opcodeAtPc = .unrecognized w) :
    step s = .next (s.latch.setPc (s.pc + 2)).decrementTimers := by
  rw [← State.finish_running (s0 := s.latch) (t := s.latch.setPc (s.pc + 2)) hf]
  exact step_of_execOpcode hf hm (by rw [execOpcode, hw]; rfl)

/-! ## What a handler writes -/

theorem exec_keepsRegs {i : Instr} {s t : State} (h : exec i s = .next t) : KeepsRegs (destRegs i) s t := by
  intro r hr
  obtain ⟨_, _, rfl⟩ | ha := exec_cases h
  · rfl
  cases i with
  | cls => cases ha; rfl
  | ret | call => obtain ⟨_, rfl⟩ := ha; rfl
  | seImm | sneImm | seReg | sneReg => cases ha; exact s.skipIf_reg _ r
  | skp | sknp => obtain ⟨k, -, rfl⟩ := ha; exact s.skipIf_reg _ r
  | ldF => obtain ⟨a, -, rfl⟩ := ha; rfl
  | drw | ldB | ldMemVx => obtain ⟨-, rfl⟩ := ha; simp_all [destRegs]
  | ldVxMem x =>
    obtain ⟨-, rfl⟩ := ha
    rw [State.reg_loadRegs, if_neg (mem_regsUpTo.not.1 hr)]
  | ldVxK => cases ha; split <;> simp_all [destRegs]
  | _ => cases ha; simp_all [destRegs, State.subtract, State.shiftLeft]

/-! ## Where `pc` ends (R25) -/

/-- RET goes to the entry below `SP`. -/
theorem pcAfter_ret (a : Word) (s : State) : pcAfter a s .ret = s.stack[s.sp.val - 1] := by
  simp [pcAfter, List.getD, show s.sp.val - 1 < 16 by omega]

/-- A handler run with `pc` past an instruction at `a` leaves `pc` where the table of R25 says. -/
theorem exec_pc {i : Instr} {s t : State} {a : Word} (h : exec i (s.setPc (a + 2)) = .next t) (ht : t.fault = none) :
    t.pc = pcAfter a s i := by
  obtain ⟨_, _, rfl⟩ | ha := exec_cases h
  · cases ht
  cases i with
  | ret => obtain ⟨_, rfl⟩ := ha; exact (pcAfter_ret a s).symm
  | call => obtain ⟨_, rfl⟩ := ha; simp [pcAfter, zextAddr]
  | jp | jpV0 => cases ha; simp [pcAfter, zextAddr, zextByte, BitVec.ofNat_add]
  | seImm | sneImm | seReg | sneReg => cases ha; simp [pcAfter, BitVec.add_assoc]
  | skp | sknp =>
    obtain ⟨k, hk, rfl⟩ := ha
    rw [State.setPc_reg] at hk
    cases hs : s.key k <;> simp [pcAfter, hk, hs, BitVec.add_assoc]
  | ldVxK =>
    cases ha
    split
    · next k hk => exact (if_pos ⟨k, (firstKey_eq_some.1 hk).1⟩).symm
    · next hk =>
      have hk : ∀ k, s.key k = false := firstKey_eq_none.1 hk
      simp [pcAfter, hk]
  | ldF => obtain ⟨_, -, rfl⟩ := ha; rfl
  | drw | ldB | ldMemVx => obtain ⟨-, rfl⟩ := ha; rfl
  | ldVxMem x =>
    obtain ⟨-, rfl⟩ := ha
    obtain ⟨_, hx⟩ := (s.setPc (a + 2)).loadRegs_rest s.index.toNat x
    exact congrArg State.pc hx
  | _ => cases ha; rfl

/-- No row of the table of R25 leads above 0x10FE, the highest target of BNNN (R137). -/
theorem pcAfter_le {a : Word} {s : State} (i : Instr) (ha : a.toNat + 2 ≤ 0x1000)
    (hs : ∀ j : Fin 16, s.stack[j].toNat ≤ 0x1000) : (pcAfter a s i).toNat ≤ 0x10FE := by
  have h2 : (a + 2).toNat ≤ 0x10FE := by simp; omega
  have h4 : (a + 4).toNat ≤ 0x10FE := by simp; omega
  cases i with
  | ret =>
    rw [pcAfter_ret]
    exact (hs ⟨s.sp.val - 1, by omega⟩).trans (by decide)
  | jp nnn | call nnn =>
    have := nnn.isLt
    simp [pcAfter]; omega
  | jpV0 nnn =>
    have := nnn.isLt
    have := (s.reg 0).isLt
    simp [pcAfter]; omega
  | seImm | sneImm | seReg | sneReg | skp | sknp => simp only [pcAfter]; split <;> assumption
  | ldVxK => simp only [pcAfter]; split <;> omega
  | _ => exact h2

/-! ## The elements that no instruction reads: ST, `dirty` and the call-stack entries at or above SP -/

/-- Another sound timer, dirty flag and call stack that a state may hold. -/
structure Unread where
  st : Byte
  dirty : Bool
  stack : Vector Word 16

/-- `s` holding those of `r` instead of its own. -/
def State.withUnread (r : Unread) (s : State) : State := { s with st := r.st, dirty := r.dirty, stack := r.stack }

/-- The active entries of the call stack are those of `s`: only the others are free to differ. -/
def Unread.AgreesBelowSp (r : Unread) (s : State) : Prop := ∀ k : Fin 16, k.val < s.sp.val → r.stack[k] = s.stack[k]

/-- From `s` to `t` no new difference has come up: what `r` holds as `s` does, `r'` holds as `t` does, and an entry that is
active in `t` is the same in both. -/
structure Unread.Follows (r : Unread) (s : State) (r' : Unread) (t : State) : Prop where
  st : r.st = s.st → r'.st = t.st
  dirty : r.dirty = s.dirty → r'.dirty = t.dirty
  stack : ∀ k : Fin 16, r.stack[k] = s.stack[k] ∨ k.val < t.sp.val → r'.stack[k] = t.stack[k]

section
variable (r : Unread) (s : State)

@[simp] theorem State.withUnread_index : (s.withUnread r).index = s.index := rfl
@[simp] theorem State.withUnread_pc : (s.withUnread r).pc = s.pc := rfl
@[simp] theorem State.withUnread_keypad : (s.withUnread r).keypad = s.keypad := rfl
@[simp] theorem State.withUnread_reg (x : Reg) : (s.withUnread r).reg x = s.reg x := rfl
@[simp] theorem State.withUnread_key (k : Fin 16) : (s.withUnread r).key k = s.key k := rfl

@[simp] theorem State.withUnread_skipIf (c : Bool) : (s.withUnread r).skipIf c = (s.skipIf c).withUnread r := by
  cases c <;> rfl

@[simp] theorem State.withUnread_loadRegs (a : Nat) (x : Reg) :
    (s.withUnread r).loadRegs a x = (s.loadRegs a x).withUnread r :=
  List.foldl_hom (State.withUnread r) fun _ _ => rfl

theorem State.withUnread_push (a : Word) : (s.withUnread r).push a =
    (s.push a).map (State.withUnread { r with stack := r.stack.setIfInBounds s.sp.val a }) := by
  by_cases h : s.sp.val < 16 <;> simp [State.push, State.withUnread, Vector.setIfInBounds, Array.setIfInBounds, h]

variable {r s}

/-- A pop reads an active entry. -/
theorem State.withUnread_pop (hr : r.AgreesBelowSp s) :
    (s.withUnread r).pop = s.pop.map fun p => (p.1, p.2.withUnread r) := by
  by_cases h : 0 < s.sp.val
  · have := hr ⟨s.sp.val - 1, by omega⟩ (by simp; omega)
    simpa [State.pop, State.withUnread, h] using this
  · simp [State.pop, State.withUnread, h]

/-- What writes none of these elements and pushes nothing makes no difference in them. -/
theorem Unread.AgreesBelowSp.follows {t : State} (hr : r.AgreesBelowSp s) (hst : t.st = s.st) (hd : t.dirty = s.dirty)
    (hsp : t.sp ≤ s.sp) (hk : t.stack = s.stack) : r.Follows s r t :=
  ⟨fun h => h.trans hst.symm, fun h => h.trans hd.symm,
    fun k h => hk ▸ h.elim id fun hlt => hr k (lt_of_lt_of_le hlt hsp)⟩

/-- CALL writes the entry it makes active, whatever stood there. -/
theorem Unread.AgreesBelowSp.follows_push {t : State} {a : Word} (hr : r.AgreesBelowSp s) (h : s.push a = some t) :
    r.Follows s { r with stack := r.stack.setIfInBounds s.sp.val a } t := by
  obtain ⟨hsp, rfl⟩ := State.push_eq_some.1 h
  refine ⟨id, id, fun k hk => ?_⟩
  simp only [Fin.getElem_fin, Vector.getElem_set, Vector.getElem_setIfInBounds] at hk ⊢
  split
  · rfl
  · next hne => exact hk.elim id fun hlt => hr k (by omega)

/-- A handler runs the same whatever ST, `dirty` and the inactive entries hold, and makes no new difference in them. -/
theorem exec_withUnread {i : Instr} {t : State} (hr : r.AgreesBelowSp s) (h : exec i s = .next t) :
    ∃ r', exec i (s.withUnread r) = .next (t.withUnread r') ∧ r.Follows s r' t := by
  cases i with
  | cls => cases h; exact ⟨{ r with dirty := true }, rfl, { hr.follows rfl rfl le_rfl rfl with dirty := fun _ => rfl }⟩
  | ldStVx x =>
    cases h
    exact ⟨{ r with st := s.reg x }, rfl, { hr.follows rfl rfl le_rfl rfl with st := fun _ => rfl }⟩
  | drw =>
    simp only [exec, execDrw, State.withUnread_index] at h ⊢
    split at h <;> cases h
    · exact ⟨r, rfl, hr.follows rfl rfl le_rfl rfl⟩
    · exact ⟨{ r with dirty := true }, rfl, { hr.follows rfl rfl le_rfl rfl with dirty := fun _ => rfl }⟩
  | ret =>
    simp only [exec, execRet, State.withUnread_pop hr] at h ⊢
    split at h <;> cases h
    · next hu =>
      rw [hu]
      exact ⟨r, rfl, hr.follows rfl rfl le_rfl rfl⟩
    · next a u hu =>
      rw [hu]
      obtain ⟨_, -, rfl⟩ := State.pop_eq_some.1 hu
      exact ⟨r, rfl, hr.follows rfl rfl (Nat.sub_le ..) rfl⟩
  | call nnn =>
    simp only [exec, execCall, State.withUnread_push, State.withUnread_pc] at h ⊢
    split at h <;> cases h
    · next hu =>
      rw [hu]
      exact ⟨r, rfl, hr.follows rfl rfl le_rfl rfl⟩
    · next u hu =>
      rw [hu]
      exact ⟨_, rfl, { hr.follows_push hu with }⟩
  | seImm | sneImm | seReg | sneReg =>
    cases h
    obtain ⟨p, hp⟩ := s.skipIf_rest _
    exact ⟨r, congrArg Host.Outcome.next (s.withUnread_skipIf r _), hp ▸ hr.follows rfl rfl le_rfl rfl⟩
  | skp | sknp =>
    simp only [exec, execSkp, execSknp, State.withUnread_reg, State.withUnread_key, State.withUnread_skipIf] at h ⊢
    split at h <;> cases h
    · exact ⟨r, rfl, hr.follows rfl rfl le_rfl rfl⟩
    · obtain ⟨p, hp⟩ := s.skipIf_rest _
      exact ⟨r, rfl, hp ▸ hr.follows rfl rfl le_rfl rfl⟩
  | ldF | ldB | ldMemVx =>
    simp only [exec, execLdF, execLdB, execLdMemVx, State.withUnread_reg, State.withUnread_index] at h ⊢
    split at h <;> cases h <;> exact ⟨r, rfl, hr.follows rfl rfl le_rfl rfl⟩
  | ldVxMem x =>
    simp only [exec, execLdVxMem, State.withUnread_index, State.withUnread_loadRegs] at h ⊢
    obtain ⟨x', hx⟩ := s.loadRegs_rest s.index.toNat x
    split at h <;> cases h
    · exact ⟨r, rfl, hr.follows rfl rfl le_rfl rfl⟩
    · exact ⟨r, rfl, hx ▸ hr.follows rfl rfl le_rfl rfl⟩
  | ldVxK x =>
    cases h
    simp only [exec, execLdVxK, State.withUnread_keypad]
    split <;> exact ⟨r, rfl, hr.follows rfl rfl le_rfl rfl⟩
  | _ => cases h; exact ⟨r, rfl, hr.follows rfl rfl le_rfl rfl⟩

/-- A step too, whose timer tick takes equal sound timers to equal ones. -/
theorem step_withUnread {t : State} (hr : r.AgreesBelowSp s) (h : step s = .next t) :
    ∃ r', step (s.withUnread r) = .next (t.withUnread r') ∧ r.Follows s r' t := by
  obtain ⟨hf, rfl⟩ | ⟨hf, a, ha, rfl⟩ | ⟨hf, hm, ⟨i, u, hi, hu, rfl⟩ | ⟨w, hw, rfl⟩⟩ := step_cases h
  · exact ⟨r, step_of_halted hf, hr.follows rfl rfl le_rfl rfl⟩
  · exact ⟨r, step_of_fetch_fault hf ha, hr.follows rfl rfl le_rfl rfl⟩
  · obtain ⟨r', hu', hst, hd, hk⟩ := exec_withUnread (s := s.latch.setPc (s.pc + 2)) hr hu
    rw [step_of_instr (s := s.withUnread r) hf hm hi hu']
    obtain ⟨hfu, e⟩ | ⟨hfu, e⟩ := s.latch.finish_cases u <;> rw [e]
    · rw [State.finish_running (by exact hfu)]
      exact ⟨{ r' with st := timerTick r'.st }, rfl, fun h => congrArg timerTick (hst h), hd, hk⟩
    · rw [State.finish_faulted (by exact hfu)]
      exact ⟨r, rfl, hr.follows rfl rfl le_rfl rfl⟩
  · exact ⟨{ r with st := timerTick r.st }, step_of_unrecognized (s := s.withUnread r) hf hm hw,
      congrArg timerTick, id, fun k hk => hk.elim id (hr k)⟩

end

end Sys2Proof.Machine

namespace Sys2Proof.Proofs

open Sys2Proof.Machine Sys2Proof.Safety Sys2Proof.Statements

/-- Settles O52: a handler that raises writes no register, one that answers only those of its own row. -/
theorem onlyDestinationRegistersChange : Obligations.OnlyDestinationRegistersChange :=
  fun _ _ _ => exec_keepsRegs

/-- Settles O53, by the answers of `exec_cases`: a fault entry writes none of these elements, an answer those of its own row. -/
theorem onlyNamedWritersChangeState : Obligations.OnlyNamedWritersChangeState := by
  intro i s t h
  obtain ⟨_, _, rfl⟩ | ha := exec_cases h
  · simp [KeepsDisplay, KeepsMem]
  cases i with
  | cls => cases ha; simp [KeepsMem, State.byteAt, State.key, writesDisplay]
  | ret | call => obtain ⟨_, rfl⟩ := ha; simp [KeepsDisplay, KeepsMem, State.pixel, State.byteAt, State.key]
  | seImm | sneImm | seReg | sneReg =>
    cases ha
    obtain ⟨p, hp⟩ := s.skipIf_rest _
    rw [hp]
    simp [KeepsDisplay, KeepsMem]
  | skp | sknp =>
    obtain ⟨k, -, rfl⟩ := ha
    obtain ⟨p, hp⟩ := s.skipIf_rest _
    rw [hp]
    simp [KeepsDisplay, KeepsMem]
  | ldF => obtain ⟨a, -, rfl⟩ := ha; simp [KeepsDisplay, KeepsMem, writesIndex]
  | drw | ldB | ldMemVx =>
    obtain ⟨-, rfl⟩ := ha
    simp [KeepsDisplay, KeepsMem, writesDisplay, writesMemory]
  | ldVxMem x =>
    obtain ⟨-, rfl⟩ := ha
    obtain ⟨x', hx⟩ := s.loadRegs_rest s.index.toNat x
    rw [hx]
    simp [KeepsDisplay, KeepsMem, State.pixel, State.byteAt, State.key]
  | ldVxK => cases ha; split <;> simp [KeepsDisplay, KeepsMem]
  | _ => cases ha; simp [KeepsDisplay, KeepsMem, State.subtract, State.shiftLeft, writesIndex]

/-- Of the call stack a handler changes at most one entry, to the `pc` it was given (R132). -/
theorem exec_stackEntry {i : Instr} {s t : State} (h : exec i s = .next t) (j : Fin 16) :
    t.stack[j] = s.stack[j] ∨ t.stack[j] = s.pc := by
  by_cases hc : ∃ nnn, i = .call nnn
  · obtain ⟨nnn, rfl⟩ := hc
    obtain ⟨_, _, rfl⟩ | ⟨hsp, rfl⟩ := exec_cases h
    · exact .inl rfl
    · simp only [Fin.getElem_fin, Vector.getElem_set]
      split <;> simp
  · obtain ⟨-, -, hstack, -⟩ := onlyNamedWritersChangeState i s t h
    exact .inl (hstack (fun nnn e => hc ⟨nnn, e⟩) j)

/-- Settles O14: a handler ends at its row of the table, and the end of a step that does not fault keeps that `pc`. -/
theorem pcAfterStepFollowsTable : Obligations.PcAfterStepFollowsTable := by
  intro s t hs h ht
  obtain ⟨hf, -⟩ | ⟨-, a, -, rfl⟩ | ⟨-, -, ⟨i, u, hi, hu, rfl⟩ | ⟨w, hw, rfl⟩⟩ := step_cases h
  · simp [hs] at hf
  · cases ht
  · obtain ⟨hfu, e⟩ | ⟨hfu, e⟩ := s.latch.finish_cases u <;> rw [e] at ht ⊢
    · refine ⟨fun j hj => ?_, fun w hw => by simp [hi] at hw⟩
      obtain rfl : i = j := by simpa [hi] using hj
      exact (exec_pc hu hfu :)
    · simp [show u.fault = none from ht] at hfu
  · exact ⟨fun i hi => by simp [hw] at hi, fun _ _ => rfl⟩

/-- Settles O22: `pc` goes by the table of R25, whose targets are bounded, and the stack takes only a `pc` past a fetch. -/
theorem stepKeepsAddressesBounded : Obligations.StepKeepsAddressesBounded := by
  intro s t hs h
  obtain ⟨-, rfl⟩ | ⟨-, a, -, rfl⟩ | ⟨-, hm, hrun⟩ := step_cases h
  · exact hs
  · exact hs
  have hm : s.pc.toNat + 2 ≤ 0x1000 := (outOfRange_eq_none.1 hm).resolve_left (by decide)
  have hpc : (s.pc + 2).toNat ≤ 0x1000 := by simp; omega
  obtain ⟨i, u, -, hu, rfl⟩ | ⟨w, -, rfl⟩ := hrun
  · obtain ⟨hfu, e⟩ | ⟨-, e⟩ := s.latch.finish_cases u <;> rw [e]
    · refine ⟨(exec_pc hu hfu).symm ▸ pcAfter_le i hm hs.2, fun j => ?_⟩
      obtain hj | hj := exec_stackEntry hu j
      · exact hj.symm ▸ hs.2 j
      · exact hj.symm ▸ hpc
    · exact hs
  · exact ⟨hpc.trans (by decide), hs.2⟩

/-- Settles O54: the two steps run alike, and where the call stacks are equal they stay equal. -/
theorem soundTimerAndDirtyAreUnread : Obligations.SoundTimerAndDirtyAreUnread := by
  intro s t v b h
  obtain ⟨r', hs, -, -, hk⟩ := step_withUnread (r := ⟨v, b, s.stack⟩) (fun _ _ => rfl) h
  have hk : r'.stack = t.stack := Vector.ext fun k hk16 => hk ⟨k, hk16⟩ (.inl rfl)
  exact ⟨_, hs, by simp [State.withUnread, hk]⟩

/-- Settles O57: the two steps run alike, every entry that was equal stays equal, and one that becomes active is written. -/
theorem stackAboveSpIsUnread : Obligations.StackAboveSpIsUnread := by
  intro s t j w hj h
  have hset (k : Fin 16) (hk : k ≠ j) : (s.stack.set j w)[k] = s.stack[k] :=
    Vector.getElem_set_ne j.isLt k.isLt fun e => hk (Fin.ext e.symm)
  obtain ⟨r', hs, hst, hd, hk⟩ := step_withUnread (r := ⟨s.st, s.dirty, s.stack.set j w⟩)
    (fun k hk => hset k (by omega)) h
  exact ⟨_, hs, by simp [State.withUnread, hst rfl, hd rfl], fun k hkj => hk k (.inl (hset k hkj)),
    fun hlt => hk j (.inr hlt)⟩

end Sys2Proof.Proofs

/-! PROOFS. Memory is one for data and instructions (20_memory): what a register dump stores is what the next fetch reads (O51). -/

namespace Sys2Proof.Machine

/-- The opcode at `pc` is the byte at `pc` above the byte after it (R53, R103). -/
theorem State.opcodeAtPc_toNat (s : State) :
    s.opcodeAtPc.toNat = 256 * (s.byteAt s.pc.toNat).toNat + (s.byteAt (s.pc.toNat + 1)).toNat := by
  have hlo := (s.byteAt (s.pc.toNat + 1)).isLt
  simp only [State.opcodeAtPc, opcodeOfBytes, BitVec.toNat_append]
  rw [← Nat.shiftLeft_add_eq_or_of_lt hlo, Nat.shiftLeft_eq, Nat.mul_comm]

/-- A register dump that stays inside memory stores the block of registers at `I` (R194). -/
theorem exec_ldMemVx_of_le {x : Reg} {s : State} (h : s.index.toNat + x.val + 1 ≤ 0x1000) :
    exec (.ldMemVx x) s = .next (s.storeBytes s.index.toNat (s.regBlock x)) := by
  have hm : outOfRange s.index.toNat (x.val + 1) = none := outOfRange_eq_none.2 (.inr h)
  simp only [exec, execLdMemVx, hm]

/-- After the registers up to `x` are stored at `a`, register `r` of them stands `r` bytes past `a`. -/
theorem State.byteAt_storeBytes_regBlock (s : State) (a : Nat) {x r : Reg} (h : r ≤ x) :
    (s.storeBytes a (s.regBlock x)).byteAt (a + r.val) = s.reg r := by
  have hr : a ≤ a + r.val ∧ a + r.val < a + (s.regBlock x).length := by
    have : r.val ≤ x.val := h
    rw [length_regBlock]
    omega
  rw [State.byteAt_storeBytes, dif_pos hr, getElem_regBlock]
  congr 1
  exact Fin.ext (Nat.add_sub_cancel_left a r.val)

end Sys2Proof.Machine

namespace Sys2Proof.Proofs

open Sys2Proof.Machine

/-- Settles O51: with `pc` at `I` the fetch reads the two bytes that the dump of registers 0 and 1 stored. -/
theorem storedBytesAreFetched : Obligations.StoredBytesAreFetched := by
  intro x s hx hm hpc
  let t := s.storeBytes s.index.toNat (s.regBlock x)
  have h0 : t.byteAt s.index.toNat = s.reg 0 := s.byteAt_storeBytes_regBlock _ (Fin.zero_le x)
  have h1 : t.byteAt (s.index.toNat + 1) = s.reg 1 := s.byteAt_storeBytes_regBlock _ (r := 1) hx
  have ht : t.pc = s.index := hpc
  exact ⟨t, exec_ldMemVx_of_le hm, by rw [State.opcodeAtPc_toNat, ht, h0, h1]⟩

end Sys2Proof.Proofs

/-! PROOFS. Encoding (30_encoding): `decodeOpcode` and `encode` undo each other (O4, O5), and every opcode is either one that
a row of the opcode map of R84 selects or one of the table of R90 (O6, O7). O5 to O7 rest on what the decoder's answer says of
the opcode (`decodeOpcode_fits`); O6 and O7 rest also on the fact that no row of the map selects an opcode of the table. -/

namespace Sys2Proof

open Sys2Proof.Statements

/-! ## An opcode from its bytes, and from its fields -/

theorem opcodeOfBytes_extractLsb' (op : Word) : opcodeOfBytes (op.extractLsb' 8 8) (op.extractLsb' 0 8) = op :=
  (BitVec.extractLsb'_append_extractLsb'_eq_extractLsb' rfl).trans BitVec.extractLsb'_eq_self

theorem decodeBytes_encodeBytes (i : Instr) : decodeBytes (encodeBytes i) = decodeOpcode (encode i) :=
  congrArg decodeOpcode (opcodeOfBytes_extractLsb' (encode i))

theorem encodeNNN_opNNN {op : Word} {f : BitVec 4} (hf : (opFamily op).toNat = f.toNat) :
    encodeNNN f (opNNN op) = op := by
  apply BitVec.eq_of_toNat_eq
  rw [opFamily_toNat] at hf
  rw [encodeNNN_toNat, opNNN_toNat]; omega

theorem encodeXKK_opX {op : Word} {f : BitVec 4} {kk : Byte} (hf : (opFamily op).toNat = f.toNat) (hk : opKK op = kk) :
    encodeXKK f (opX op) kk = op := by
  apply BitVec.eq_of_toNat_eq
  rw [opFamily_toNat] at hf
  rw [encodeXKK_toNat, opX_val, ← hk, opKK_toNat]; omega

theorem encodeXYN_opX_opY {op : Word} {f : BitVec 4} {n : Nibble} (hf : (opFamily op).toNat = f.toNat)
    (hn : opN op = n) : encodeXYN f (opX op) (opY op) n = op := by
  apply BitVec.eq_of_toNat_eq
  rw [opFamily_toNat] at hf
  rw [encodeXYN_toNat, opX_val, opY_val, ← hn, opN_toNat]; omega

/-! ## Decoding the opcode of an instruction -/

theorem decodeOpcode_of_family8 {op : Word} (h : opFamily op = 0x8) : decodeOpcode op = decodeFamily8 op := by
  simp only [decodeOpcode, h]; rfl

theorem decodeOpcode_of_familyE {op : Word} (h : opFamily op = 0xE) : decodeOpcode op = decodeFamilyE op := by
  simp only [decodeOpcode, h]; rfl

theorem decodeOpcode_of_familyF {op : Word} (h : opFamily op = 0xF) : decodeOpcode op = decodeFamilyF op := by
  simp only [decodeOpcode, h]; rfl

theorem decodeOpcode_encode (i : Instr) : decodeOpcode (encode i) = .instr i := by
  cases i
  case cls | ret => rfl
  case ldReg | orReg | andReg | xorReg | addReg | subReg | shr | subnReg | shl =>
    simp [encode, decodeOpcode_of_family8, decodeFamily8]
  case skp | sknp => simp [encode, decodeOpcode_of_familyE, decodeFamilyE]
  case ldVxDt | ldVxK | ldDtVx | ldStVx | addI | ldF | ldB | ldMemVx | ldVxMem =>
    simp [encode, decodeOpcode_of_familyF, decodeFamilyF]
  all_goals simp [encode, decodeOpcode]

/-! ## What decoding can answer -/

/-- What an answer of the decoder says of the opcode: an instruction encodes to it, a refusal finds it in the table of R90. -/
def Decoded.Fits (op : Word) : Decoded → Prop
  | .instr i => encode i = op
  | .unrecognized _ => UnrecognizedByTable op

/-- The conditions of R90 on the fields the decoder looks at (R85 to R89). -/
theorem unrecognizedByTable_iff {op : Word} : UnrecognizedByTable op ↔
    ((opFamily op).toNat = 0x0 ∧ op ≠ 0x00E0 ∧ op ≠ 0x00EE) ∨
    (((opFamily op).toNat = 0x5 ∨ (opFamily op).toNat = 0x9) ∧ opN op ≠ 0) ∨
    ((opFamily op).toNat = 0x8 ∧ (opN op).toNat ∈ [8, 9, 0xA, 0xB, 0xC, 0xD, 0xF]) ∨
    ((opFamily op).toNat = 0xE ∧ opKK op ∉ [0x9E, 0xA1]) ∨
    ((opFamily op).toNat = 0xF ∧ opKK op ∉ [0x07, 0x0A, 0x15, 0x18, 0x1E, 0x29, 0x33, 0x55, 0x65]) := by
  simp [UnrecognizedByTable, BitVec.toNat_eq, opFamily_toNat, opN_toNat, opKK_toNat]

/-- A choice fits when what is chosen does. -/
theorem Decoded.Fits.of_ite {op : Word} {c : Prop} [Decidable c] {a b : Decoded} (ha : c → a.Fits op)
    (hb : ¬ c → b.Fits op) : (if c then a else b).Fits op := by
  split
  · next h => exact ha h
  · next h => exact hb h

theorem decodeFamily0_fits {op : Word} (hf : (opFamily op).toNat = 0x0) : (decodeFamily0 op).Fits op :=
  .of_ite Eq.symm fun hcls => .of_ite Eq.symm fun hret => unrecognizedByTable_iff.2 (.inl ⟨hf, hcls, hret⟩)

theorem decodeFamily8_fits {op : Word} (hf : (opFamily op).toNat = 0x8) : (decodeFamily8 op).Fits op := by
  unfold decodeFamily8
  split
  case h_10 =>
    have hn : (opN op).toNat ∈ [8, 9, 0xA, 0xB, 0xC, 0xD, 0xF] := by
      simp only [List.mem_cons, List.not_mem_nil, or_false, imp_false] at *; omega
    exact unrecognizedByTable_iff.2 (.inr (.inr (.inl ⟨hf, hn⟩)))
  all_goals next hn => exact encodeXYN_opX_opY hf (BitVec.eq_of_toNat_eq hn)

theorem decodeFamilyE_fits {op : Word} (hf : (opFamily op).toNat = 0xE) : (decodeFamilyE op).Fits op := by
  have row {kk : Byte} : opKK op = kk → encodeXKK 0xE (opX op) kk = op := encodeXKK_opX hf
  refine .of_ite row fun h9E => .of_ite row fun hA1 =>
    unrecognizedByTable_iff.2 (.inr (.inr (.inr (.inl ⟨hf, ?_⟩))))
  simp only [List.mem_cons, List.not_mem_nil, h9E, hA1, or_self, not_false_eq_true]

theorem decodeFamilyF_fits {op : Word} (hf : (opFamily op).toNat = 0xF) : (decodeFamilyF op).Fits op := by
  have row {kk : Byte} : opKK op = kk → encodeXKK 0xF (opX op) kk = op := encodeXKK_opX hf
  refine .of_ite row fun h07 => .of_ite row fun h0A => .of_ite row fun h15 => .of_ite row fun h18 =>
    .of_ite row fun h1E => .of_ite row fun h29 => .of_ite row fun h33 => .of_ite row fun h55 =>
    .of_ite row fun h65 => unrecognizedByTable_iff.2 (.inr (.inr (.inr (.inr ⟨hf, ?_⟩))))
  simp only [List.mem_cons, List.not_mem_nil, h07, h0A, h15, h18, h1E, h29, h33, h55, h65, or_self, not_false_eq_true]

theorem decodeOpcode_fits (op : Word) : (decodeOpcode op).Fits op := by
  unfold decodeOpcode
  split
  · next hf => exact decodeFamily0_fits hf
  · next hf => exact encodeNNN_opNNN hf
  · next hf => exact encodeNNN_opNNN hf
  · next hf => exact encodeXKK_opX hf rfl
  · next hf => exact encodeXKK_opX hf rfl
  · next hf => exact .of_ite (encodeXYN_opX_opY hf) fun hn => unrecognizedByTable_iff.2 (.inr (.inl ⟨.inl hf, hn⟩))
  · next hf => exact encodeXKK_opX hf rfl
  · next hf => exact encodeXKK_opX hf rfl
  · next hf => exact decodeFamily8_fits hf
  · next hf => exact .of_ite (encodeXYN_opX_opY hf) fun hn => unrecognizedByTable_iff.2 (.inr (.inl ⟨.inr hf, hn⟩))
  · next hf => exact encodeNNN_opNNN hf
  · next hf => exact encodeNNN_opNNN hf
  · next hf => exact encodeXKK_opX hf rfl
  · next hf => exact encodeXYN_opX_opY hf rfl
  · next hf => exact decodeFamilyE_fits hf
  · refine decodeFamilyF_fits ?_
    simp only [imp_false] at *
    omega

theorem encode_eq_of_decodeOpcode {op : Word} {i : Instr} (h : decodeOpcode op = .instr i) : encode i = op := by
  have hfits := decodeOpcode_fits op
  rwa [h] at hfits

theorem unrecognizedByTable_of_decodeOpcode {op : Word} {why : Unrecognized} (h : decodeOpcode op = .unrecognized why) :
    UnrecognizedByTable op := by
  have hfits := decodeOpcode_fits op
  rwa [h] at hfits

/-! ## The opcode map -/

theorem wellFormedOpcode_iff {op : Word} :
    wellFormedOpcode op = true ↔ ∃ row ∈ opcodeMap, op &&& row.mask = row.matchBits := by
  simp [wellFormedOpcode, OpcodeRow.selects]

open Laws.Recognized in
theorem wellFormedOpcode_encode (i : Instr) : wellFormedOpcode (encode i) = true := by
  cases i
  exacts [cls, ret, jp _, call _, seImm _ _, sneImm _ _, seReg _ _, ldImm _ _, addImm _ _, ldReg _ _, orReg _ _,
    andReg _ _, xorReg _ _, addReg _ _, subReg _ _, shr _ _, subnReg _ _, shl _ _, sneReg _ _, ldI _, jpV0 _, rnd _ _,
    drw _ _ _, skp _, sknp _, ldVxDt _, ldVxK _, ldDtVx _, ldStVx _, addI _, ldF _, ldB _, ldMemVx _, ldVxMem _]

theorem selects_of_decodeOpcode {op : Word} {i : Instr} (h : decodeOpcode op = .instr i) :
    ∃ row ∈ opcodeMap, op &&& row.mask = row.matchBits := by
  obtain rfl := encode_eq_of_decodeOpcode h
  exact wellFormedOpcode_iff.1 (wellFormedOpcode_encode i)

/-- A field that a mask covers has the bits that the masked opcode has there. -/
theorem extractLsb'_eq_of_and {op mask m : Word} {start len : Nat} (h : op &&& mask = m)
    (hm : mask.extractLsb' start len = BitVec.allOnes len) : op.extractLsb' start len = m.extractLsb' start len := by
  rw [← h, BitVec.extractLsb'_and, hm, BitVec.and_allOnes]

/-- The mask of every row covers nibble0, and what the decoder looks at besides it in the row's family (R83, R85 to R89). -/
theorem opcodeMap_masks : ∀ row ∈ opcodeMap, opFamily row.mask = 0xF ∧
    ((opFamily row.matchBits).toNat = 0x0 → row.mask = 0xFFFF) ∧
    ((opFamily row.matchBits).toNat ∈ [0x5, 0x8, 0x9] → opN row.mask = 0xF) ∧
    ((opFamily row.matchBits).toNat ∈ [0xE, 0xF] → opKK row.mask = 0xFF) := by decide

theorem not_unrecognizedByTable_matchBits : ∀ row ∈ opcodeMap, ¬ UnrecognizedByTable row.matchBits := by
  unfold UnrecognizedByTable; decide

/-- The conditions of R90 see only bits that a row's mask covers, so an opcode that the row selects meets them only if the row's
own bits do. -/
theorem not_unrecognizedByTable_of_selects {op : Word} {row : OpcodeRow} (hrow : row ∈ opcodeMap)
    (hs : op &&& row.mask = row.matchBits) : ¬ UnrecognizedByTable op := by
  obtain ⟨hF, h0, hN, hKK⟩ := opcodeMap_masks row hrow
  have hf : opFamily op = opFamily row.matchBits := extractLsb'_eq_of_and hs hF
  rw [← hf] at h0 hN hKK
  intro ht
  refine not_unrecognizedByTable_matchBits row hrow (unrecognizedByTable_iff.2 ?_)
  rw [← hf]
  obtain ⟨h, hop⟩ | ⟨h, hn⟩ | ⟨h, hn⟩ | ⟨h, hk⟩ | ⟨h, hk⟩ := unrecognizedByTable_iff.1 ht
  · have heq : op = row.matchBits := by rw [← hs, h0 h]; exact BitVec.and_allOnes.symm
    exact .inl ⟨h, heq ▸ hop⟩
  · have heq : opN op = opN row.matchBits := extractLsb'_eq_of_and hs (hN (by simp; omega))
    exact .inr (.inl ⟨h, heq ▸ hn⟩)
  · have heq : opN op = opN row.matchBits := extractLsb'_eq_of_and hs (hN (by simp [h]))
    exact .inr (.inr (.inl ⟨h, heq ▸ hn⟩))
  · have heq : opKK op = opKK row.matchBits := extractLsb'_eq_of_and hs (hKK (by simp [h]))
    exact .inr (.inr (.inr (.inl ⟨h, heq ▸ hk⟩)))
  · have heq : opKK op = opKK row.matchBits := extractLsb'_eq_of_and hs (hKK (by simp [h]))
    exact .inr (.inr (.inr (.inr ⟨h, heq ▸ hk⟩)))

/-- No two rows agree on the bits that both their masks cover. -/
theorem opcodeMap_disjoint : ∀ row ∈ opcodeMap, ∀ row' ∈ opcodeMap,
    row.matchBits &&& row'.mask = row'.matchBits &&& row.mask → row = row' := by decide

end Sys2Proof

namespace Sys2Proof.Proofs

/-- Settles O4: an encoded instruction has the fields it was made of, and its bytes are its opcode again. -/
theorem decodeOfEncodeIsIdentity : Obligations.DecodeOfEncodeIsIdentity :=
  fun i => ⟨decodeOpcode_encode i, (decodeBytes_encodeBytes i).trans (decodeOpcode_encode i)⟩

/-- Settles O5: in every branch of the decoder the instruction's opcode is put together from all the fields of `op`. -/
theorem encodeOfDecodeIsIdentity : Obligations.EncodeOfDecodeIsIdentity :=
  fun _ _ => encode_eq_of_decodeOpcode

/-- Settles O6: the opcode of an instruction is selected by its row, an unrecognised one is in the table and so by none; and two
rows that select one opcode agree where both masks look, which no two different rows do. -/
theorem decodingFollowsOpcodeMap : Obligations.DecodingFollowsOpcodeMap := by
  intro op
  constructor
  · cases h : decodeOpcode op with
    | instr i => exact iff_of_true ⟨i, rfl⟩ (selects_of_decodeOpcode h)
    | unrecognized why =>
      exact iff_of_false nofun fun ⟨_, hrow, hs⟩ =>
        not_unrecognizedByTable_of_selects hrow hs (unrecognizedByTable_of_decodeOpcode h)
  · intro row hrow row' hrow' hs hs'
    apply opcodeMap_disjoint row hrow row' hrow'
    rw [← hs, ← hs', BitVec.and_assoc, BitVec.and_assoc, BitVec.and_comm row.mask]

/-- Settles O7: the decoder refuses only opcodes of the table, and an instruction's opcode, selected by its row, is not in it. -/
theorem unrecognizedOpcodesAreTheTables : Obligations.UnrecognizedOpcodesAreTheTables := by
  intro op
  cases h : decodeOpcode op with
  | instr i =>
    obtain ⟨_, hrow, hs⟩ := selects_of_decodeOpcode h
    exact iff_of_false nofun (not_unrecognizedByTable_of_selects hrow hs)
  | unrecognized why => exact iff_of_true ⟨why, rfl⟩ (unrecognizedByTable_of_decodeOpcode h)

/-- Settles O2: each field is a slice of the opcode's bits. -/
theorem opcodeFieldsAreTheirBits : Obligations.OpcodeFieldsAreTheirBits :=
  fun op => ⟨opFamily_toNat op, opX_val op, opY_val op, opN_toNat op, opNNN_toNat op, opKK_toNat op⟩

/-- Settles O3, by running the decoder on the eighteen words. -/
theorem sampleWordsDecode : Obligations.SampleWordsDecode := by
  unfold Obligations.SampleWordsDecode; decide

end Sys2Proof.Proofs

/-! PROOFS. The fetch-decode-execute cycle (40_engine_cycle): every step answers a next state (O15), the fetch (O10), what a step
makes of the opcode it fetched (O8, O9), of its inputs (O12, O55) and of the timers (O13), and the halted CORE (O11). They read
the step off `step_cases` and its converses `step_of_…`. -/

namespace Sys2Proof.Machine

open Sys2Proof.Safety

/-! ## Every handler and every step answers -/

/-- A handler has no other outcome than a next state: raising a fault is one too. -/
theorem exec_answers (i : Instr) (s : State) : ∃ t, exec i s = .next t := by
  cases i with
  | ret | call | skp | sknp | ldF | drw | ldB | ldMemVx | ldVxMem =>
    simp only [exec, execRet, execCall, execSkp, execSknp, execLdF, execDrw, execLdB, execLdMemVx, execLdVxMem, raise_eq]
    split <;> exact ⟨_, rfl⟩
  | _ => exact ⟨_, rfl⟩

theorem step_answers (s : State) : ∃ t, step s = .next t := by
  cases hf : s.fault with
  | some r => exact ⟨s, step_of_halted (by simp [hf])⟩
  | none =>
    cases hm : outOfRange s.pc.toNat 2 with
    | some a => exact ⟨_, step_of_fetch_fault hf hm⟩
    | none =>
      cases hd : decodeOpcode s.opcodeAtPc with
      | instr i =>
        obtain ⟨u, hu⟩ := exec_answers i (s.latch.setPc (s.pc + 2))
        exact ⟨_, step_of_instr hf hm hd hu⟩
      | unrecognized w => exact ⟨_, step_of_unrecognized hf hm hd⟩

/-! ## The range of the fetch (R103) -/

theorem fetch_inRange {s : State} (h : s.pc.toNat + 2 ≤ 0x1000) : outOfRange s.pc.toNat 2 = none :=
  outOfRange_eq_none.2 (.inr h)

theorem fetch_outOfRange {s : State} (h : 0x1000 ≤ s.pc.toNat + 1) :
    outOfRange s.pc.toNat 2 = some (max s.pc.toNat 0x1000) :=
  outOfRange_eq_some.2 ⟨⟨by decide, Nat.lt_succ_of_le h⟩, rfl⟩

/-! ## The timers (R107) -/

@[simp] theorem timerTick_toNat (v : Byte) : (timerTick v).toNat = v.toNat - 1 := by
  unfold timerTick
  split
  · next h => rw [h]; rfl
  · next h => bv_omega

/-! ## The random byte of the step (R101) -/

/-- `s` with the random byte `v` and everything else as it is. -/
def State.withRnd (v : Byte) (s : State) : State := { s with rnd := v }

section
variable (v : Byte) (s : State)

@[simp] theorem State.withRnd_index : (s.withRnd v).index = s.index := rfl
@[simp] theorem State.withRnd_pc : (s.withRnd v).pc = s.pc := rfl
@[simp] theorem State.withRnd_keypad : (s.withRnd v).keypad = s.keypad := rfl
@[simp] theorem State.withRnd_reg (r : Reg) : (s.withRnd v).reg r = s.reg r := rfl
@[simp] theorem State.withRnd_key (k : Fin 16) : (s.withRnd v).key k = s.key k := rfl

@[simp] theorem State.withRnd_skipIf (c : Bool) : (s.withRnd v).skipIf c = (s.skipIf c).withRnd v := by
  cases c <;> rfl

@[simp] theorem State.withRnd_pop : (s.withRnd v).pop = s.pop.map fun p => (p.1, p.2.withRnd v) := by
  by_cases h : 0 < s.sp.val <;> simp [State.pop, State.withRnd, h]

@[simp] theorem State.withRnd_push (a : Word) : (s.withRnd v).push a = (s.push a).map (State.withRnd v) := by
  by_cases h : s.sp.val < 16 <;> simp [State.push, State.withRnd, h]

@[simp] theorem State.withRnd_loadRegs (a : Nat) (x : Reg) :
    (s.withRnd v).loadRegs a x = (s.loadRegs a x).withRnd v :=
  List.foldl_hom (State.withRnd v) fun _ _ => rfl

/-- An answer of a handler other than RND's is, with another random byte, the same answer but for that byte. -/
theorem exec_withRnd {i : Instr} {t : State} (hi : ∀ x kk, i ≠ .rnd x kk) (h : exec i s = .next t) :
    exec i (s.withRnd v) = .next (t.withRnd v) := by
  cases i with
  | rnd x kk => exact absurd rfl (hi x kk)
  | ret =>
    simp only [exec, execRet, State.withRnd_pop] at h ⊢
    split at h <;> next hu => cases h; rw [hu]; rfl
  | call =>
    simp only [exec, execCall, State.withRnd_push, State.withRnd_pc] at h ⊢
    split at h <;> next hu => cases h; rw [hu]; rfl
  | seImm | sneImm | seReg | sneReg => cases h; exact congrArg Host.Outcome.next (s.withRnd_skipIf v _)
  | skp | sknp | ldF | drw | ldB | ldMemVx | ldVxMem =>
    simp only [exec, execSkp, execSknp, execLdF, execDrw, execLdB, execLdMemVx, execLdVxMem, State.withRnd_reg,
      State.withRnd_key, State.withRnd_index, State.withRnd_skipIf, State.withRnd_loadRegs] at h ⊢
    split at h <;> cases h <;> rfl
  | ldVxK =>
    cases h
    simp only [exec, execLdVxK, State.withRnd_keypad]
    split <;> rfl
  | _ => cases h; rfl

end

/-- A handler keeps the random byte: RND's by its definition, any other because it would answer the byte put in its place. -/
theorem exec_rnd {i : Instr} {s t : State} (h : exec i s = .next t) : t.rnd = s.rnd := by
  by_cases hi : ∃ x kk, i = .rnd x kk
  · obtain ⟨x, kk, rfl⟩ := hi
    cases h; rfl
  · have hw : exec i s = .next (t.withRnd s.rnd) := exec_withRnd s.rnd s (fun x kk e => hi ⟨x, kk, e⟩) h
    have ht : t = t.withRnd s.rnd := Host.Outcome.next.inj (h.symm.trans hw)
    rw [ht]; rfl

/-! ## The two ends of a running step (R107, R109) -/

/-- A running step faults, with nothing kept but the record and the latched inputs, or ticks the timers after its opcode. -/
theorem step_cases_of_running {s t : State} (hs : Running s) (h : step s = .next t) :
    (¬ Running t ∧ t = { s.latch with fault := t.fault }) ∨
    (Running t ∧ ∃ u, t = u.decrementTimers ∧
      ((∃ i, decodeOpcode s.opcodeAtPc = .instr i ∧ exec i (s.latch.setPc (s.pc + 2)) = .next u) ∨
        (∃ w, decodeOpcode s.opcodeAtPc = .unrecognized w ∧ u = s.latch.setPc (s.pc + 2)))) := by
  obtain ⟨hf, -⟩ | ⟨-, a, -, rfl⟩ | ⟨-, -, ⟨i, u, hi, hu, rfl⟩ | ⟨w, hw, rfl⟩⟩ := step_cases h
  · simp [hs] at hf
  · exact .inl ⟨nofun, rfl⟩
  · obtain ⟨hfu, e⟩ | ⟨hfu, e⟩ := s.latch.finish_cases u <;> rw [e]
    · exact .inr ⟨hfu, u, rfl, .inl ⟨i, hi, hu⟩⟩
    · exact .inl ⟨Option.isSome_iff_ne_none.1 hfu, rfl⟩
  · exact .inr ⟨hs, _, rfl, .inr ⟨w, hw, rfl⟩⟩

/-- The key latch and the random byte are those of the step's input, whatever the step runs. -/
theorem step_latches {s t : State} (hs : Running s) (h : step s = .next t) :
    (∀ k, t.key k = s.latch.key k) ∧ t.rnd = s.latch.rnd := by
  obtain ⟨-, e⟩ | ⟨-, u, rfl, ⟨i, -, hu⟩ | ⟨w, -, rfl⟩⟩ := step_cases_of_running hs h
  · rw [e]; exact ⟨fun _ => rfl, rfl⟩
  · obtain ⟨-, -, -, -, -, -, -, hkey⟩ := Proofs.onlyNamedWritersChangeState i _ u hu
    exact ⟨hkey, (exec_rnd hu :)⟩
  · exact ⟨fun _ => rfl, rfl⟩

end Sys2Proof.Machine

namespace Sys2Proof.Proofs

open Sys2Proof.Machine Sys2Proof.Safety

/-- Settles O15: every branch of the cycle answers, the one that runs a handler because every handler does. -/
theorem everyStepAnswersNext : Obligations.EveryStepAnswersNext := step_answers

/-- Settles O55: every operation a handler other than RND's is made of commutes with the change of the random byte. -/
theorem onlyRndReadsRandomByte : Obligations.OnlyRndReadsRandomByte :=
  fun _ s _ v => exec_withRnd v s

/-- Settles O8: the bytes at `pc` are the opcode the step fetches, and the two ends are those of `State.finish`. -/
theorem stepRunsDecodedInstruction : Obligations.StepRunsDecodedInstruction := by
  intro s i hs hpc hi
  obtain ⟨t, ht⟩ := exec_answers i (s.latch.setPc (s.pc + 2))
  have hstep : step s = .next (s.latch.finish t) := step_of_instr hs (fetch_inRange hpc) hi ht
  refine ⟨t, ht, fun hrun => ?_, fun hraised => ?_⟩
  · rw [hstep, State.finish_running hrun]; rfl
  · rw [hstep, State.finish_faulted (Option.isSome_iff_ne_none.2 hraised)]

/-- Settles O9: such a step is a latch, the advance of `pc` and a timer tick. -/
theorem unrecognizedOpcodeOnlyAdvances : Obligations.UnrecognizedOpcodeOnlyAdvances := by
  refine ⟨fun op i s h => by rw [execOpcode, h], fun s why hs hpc hw => ?_⟩
  exact ⟨_, step_of_unrecognized hs (fetch_inRange hpc) hw, rfl, timerTick_toNat _, timerTick_toNat _,
    fun _ _ => rfl, rfl, fun _ => rfl, ⟨rfl, fun _ => rfl⟩, ⟨fun _ _ => rfl, rfl⟩, hs⟩

/-- Settles O10: past the memory the step is a latch and the fault entry at the `pc` it fetched from. -/
theorem fetchReadsBigEndianOrFaults : Obligations.FetchReadsBigEndianOrFaults := by
  refine ⟨State.opcodeAtPc_toNat, fun s hs hpc => ?_⟩
  exact ⟨_, step_of_fetch_fault hs (fetch_outOfRange hpc), rfl, rfl, fun _ _ => rfl, rfl, fun _ => rfl,
    ⟨rfl, fun _ => rfl⟩, ⟨rfl, rfl⟩, ⟨fun _ _ => rfl, rfl⟩⟩

/-- Settles O11: a Step transaction gives back the list of inputs it put its own in front of. -/
theorem haltedStepChangesNothing : Obligations.HaltedStepChangesNothing := by
  intro s hf
  have hf : s.fault.isSome := Option.isSome_iff_ne_none.2 hf
  refine ⟨step_of_halted hf, fun keys rnd => ?_⟩
  rw [State.stepWith, step_of_halted (by exact hf)]

/-- Settles O12: the step of a Step transaction latches the input it was given. -/
theorem stepLatchesItsInputs : Obligations.StepLatchesItsInputs := by
  intro keys rnd s hs
  obtain ⟨u, hu⟩ := step_answers { s with inputs := ⟨keys, rnd⟩ :: s.inputs }
  obtain ⟨hkey, hrnd⟩ := step_latches (by exact hs) hu
  exact ⟨{ u with inputs := s.inputs }, by rw [State.stepWith, hu], hkey, hrnd, rfl⟩

/-- Settles O13: the tick after the handler takes one off the timer that the handler kept or wrote; a fault rolls both back. -/
theorem timersCountDownEachStep : Obligations.TimersCountDownEachStep := by
  intro s t hs h
  obtain ⟨hf, e⟩ | ⟨hrun, u, rfl, hu⟩ := step_cases_of_running hs h
  · refine ⟨fun _ => by rw [e]; exact ⟨rfl, rfl⟩, ?_, ?_, fun _ => ?_, fun _ => ?_⟩ <;> exact fun hrun => absurd hrun hf
  refine ⟨absurd hrun, ?_⟩
  simp only [State.decrementTimers_dt, State.decrementTimers_st, timerTick_toNat]
  obtain ⟨i, hi, hu⟩ | ⟨w, hw, rfl⟩ := hu
  · obtain ⟨-, -, -, hdt, hst, -⟩ := onlyNamedWritersChangeState i _ u hu
    simp only [hi, ne_eq, Decoded.instr.injEq]
    refine ⟨fun _ hne => ?_, fun _ hne => ?_, ?_, ?_⟩
    · rw [hdt hne]; rfl
    · rw [hst hne]; rfl
    · rintro x - rfl; cases hu; rfl
    · rintro x - rfl; cases hu; rfl
  · simp only [hw]
    exact ⟨fun _ _ => rfl, fun _ _ => rfl, nofun, nofun⟩

end Sys2Proof.Proofs

/-! PROOFS. The display (41_display): CLS (O26) and DRW (O27, O28). The laws of drawing (`foldl_plot`, `spritePlots_distinct`) are
said here of the state that a sprite is drawn on, in the words of `SpriteCovers`. -/

namespace Sys2Proof.Machine

open Sys2Proof.Safety

/-! ## Fault entry and flags -/

/-- What `raise` answers is the fault entry of R212 and R213. -/
theorem faultsWith_enterFault (i : Instr) (cause : FaultCause) (info : Option Nat) (s : State) :
    FaultsWith i cause info s (s.enterFault cause (s.pc - 2) (some (encode i)) info) :=
  ⟨rfl, rfl, fun _ _ => rfl, rfl, fun _ => rfl, ⟨rfl, fun _ => rfl⟩, ⟨rfl, rfl⟩, ⟨fun _ _ => rfl, rfl⟩, fun _ => rfl, rfl,
    rfl, rfl, rfl⟩

theorem flagByte_eq_one {b : Bool} : flagByte b = 1 ↔ b = true := by cases b <;> decide

theorem flagByte_eq_zero {b : Bool} : flagByte b = 0 ↔ b = false := by cases b <;> decide

/-! ## A sprite drawn on the state (R121, R122) -/

/-- A sprite of at most 32 rows has no two bits on one pixel. So drawing it XORs each pixel with the one bit that may land there,
and judges the collision on the pixels as they were. -/
theorem drawSprite_plots (g : GlyphTable) (m : Memory) (a cx cy : Nat) {n : Nat} (hn : n ≤ 32) (d : Drawing) :
    (∀ (r : Fin 32) (c : Fin 64), (drawSprite g m a cx cy n d).fb[r][c] =
      (d.fb[r][c] ^^ decide ((r, c, true) ∈ spritePlots g m a cx cy n))) ∧
    ((drawSprite g m a cx cy n d).hit = true ↔
      d.hit = true ∨ ∃ (r : Fin 32) (c : Fin 64), (r, c, true) ∈ spritePlots g m a cx cy n ∧ d.fb[r][c] = true) := by
  rw [drawSprite_eq_plots]
  exact foldl_plot _ (spritePlots_distinct g m a cx cy n hn) d

/-- `s` with the sprite of DXYN drawn on it, whether its bytes are inside memory or not. -/
def State.draw (x y : Reg) (n : Nibble) (s : State) : State :=
  s.show (drawSprite s.params.glyphTable s.mem s.index.toNat (s.reg x).toNat (s.reg y).toNat n.toNat ⟨s.fb, false⟩)

section

variable {x y : Reg} {n : Nibble} {s : State}

theorem exec_drw_of_le (h : n = 0 ∨ s.index.toNat + n.toNat ≤ 0x1000) :
    exec (.drw x y n) s = .next (s.draw x y n) := by
  have hr : outOfRange s.index.toNat n.toNat = none := outOfRange_eq_none.2 (h.imp_left fun h => by rw [h]; rfl)
  simp only [exec, execDrw, hr, State.draw]

theorem exec_drw_of_gt (hn : n ≠ 0) (h : s.index.toNat + n.toNat > 0x1000) :
    exec (.drw x y n) s = .next (s.enterFault .memoryRange (s.pc - 2) (some (encode (.drw x y n)))
      (some (max s.index.toNat 0x1000))) := by
  have hn : n.toNat ≠ 0 := fun e => hn (BitVec.eq_of_toNat_eq e)
  have hr : outOfRange s.index.toNat n.toNat = some (max s.index.toNat 0x1000) :=
    outOfRange_eq_some.2 ⟨⟨Nat.one_le_iff_ne_zero.2 hn, h⟩, rfl⟩
  simp only [exec, execDrw, hr, raise_eq]

theorem State.draw_pixel (r : Fin 32) (c : Fin 64) [Decidable (SpriteCovers x y n s r c)] :
    (s.draw x y n).pixel r c = (s.pixel r c ^^ decide (SpriteCovers x y n s r c)) := by
  refine ((drawSprite_plots _ _ _ _ _ (by omega) _).1 r c).trans ?_
  exact congrArg (s.pixel r c ^^ ·) (decide_eq_decide.2 mem_spritePlots)

theorem State.draw_pixel_of_covers {r : Fin 32} {c : Fin 64} (h : SpriteCovers x y n s r c) :
    (s.draw x y n).pixel r c = !s.pixel r c := by
  classical rw [State.draw_pixel, decide_eq_true h, Bool.xor_true]

theorem State.draw_pixel_of_not_covers {r : Fin 32} {c : Fin 64} (h : ¬ SpriteCovers x y n s r c) :
    (s.draw x y n).pixel r c = s.pixel r c := by
  classical rw [State.draw_pixel, decide_eq_false h, Bool.xor_false]

theorem State.draw_flag_eq_one :
    (s.draw x y n).reg regF = 1 ↔ ∃ r c, SpriteCovers x y n s r c ∧ s.pixel r c = true := by
  rw [State.draw, State.reg_show, if_pos rfl, flagByte_eq_one, (drawSprite_plots _ _ _ _ _ (n := n.toNat) (by omega) _).2]
  exact (or_iff_right Bool.false_ne_true).trans (exists₂_congr fun _ _ => and_congr_left' mem_spritePlots)

theorem State.draw_flag_eq_zero :
    (s.draw x y n).reg regF = 0 ↔ ¬ ∃ r c, SpriteCovers x y n s r c ∧ s.pixel r c = true := by
  rw [← State.draw_flag_eq_one, State.draw, State.reg_show, if_pos rfl, flagByte_eq_zero, flagByte_eq_one,
    Bool.not_eq_true]

/-- A draw moves its own sprite only through the flag register. -/
theorem spriteCovers_draw (hx : x ≠ regF) (hy : y ≠ regF) (r : Fin 32) (c : Fin 64) :
    SpriteCovers x y n (s.draw x y n) r c ↔ SpriteCovers x y n s r c := by
  simp only [SpriteCovers, State.draw, State.reg_show, hx, hy, if_false, State.show_byteAt, State.show_index]

/-- The second draw XORs each pixel with the bit that the first XORed it with. -/
theorem State.draw_draw_pixel (hx : x ≠ regF) (hy : y ≠ regF) (r : Fin 32) (c : Fin 64) :
    ((s.draw x y n).draw x y n).pixel r c = s.pixel r c := by
  classical rw [State.draw_pixel, State.draw_pixel, decide_eq_decide.2 (spriteCovers_draw hx hy r c),
    Bool.xor_assoc, Bool.xor_self, Bool.xor_false]

end

end Sys2Proof.Machine

namespace Sys2Proof.Proofs

open Sys2Proof.Machine Sys2Proof.Safety

/-- Settles O26: the framebuffer CLS installs has no pixel on. -/
theorem clsClearsScreen : Obligations.ClsClearsScreen := by
  refine ⟨encodedAs_opcode rfl, fun s => ⟨_, rfl, fun r c => ?_, rfl, rfl, fun _ _ => rfl, rfl, fun _ => rfl,
    ⟨rfl, fun _ => rfl⟩, ⟨rfl, rfl⟩, fun _ => rfl, rfl, rfl, rfl, rfl, rfl⟩⟩
  simp [State.pixel]

/-- Settles O27: inside memory DRW is `State.draw`, past it a fault entry. -/
theorem drwXorsSprite : Obligations.DrwXorsSprite := by
  refine ⟨encodedAs_family 0xD rfl fun op h => by simp only [decodeOpcode, h]; rfl, fun x y n s h => ?_,
    fun x y n s hn h => ?_⟩
  · have hexec : exec (.drw x y n) s = .next (s.draw x y n) := exec_drw_of_le h
    exact ⟨_, hexec, fun _ _ => State.draw_pixel_of_covers, fun _ _ => State.draw_pixel_of_not_covers,
      State.draw_flag_eq_one.2, State.draw_flag_eq_zero.2, rfl, rfl, exec_keepsRegs hexec, rfl, fun _ => rfl,
      ⟨rfl, fun _ => rfl⟩, ⟨rfl, rfl⟩, fun _ => rfl, rfl, rfl, rfl, rfl, rfl⟩
  · exact ⟨_, exec_drw_of_gt hn h, faultsWith_enterFault _ _ _ s⟩

/-- Settles O28: the second draw covers the pixels of the first, and one of them that is on was off before the first. -/
theorem drawingTwiceRestores : Obligations.DrawingTwiceRestores := by
  intro x y n s hx hy h
  refine ⟨_, _, exec_drw_of_le h, exec_drw_of_le (s := s.draw x y n) h, State.draw_draw_pixel hx hy, ?_⟩
  rw [State.draw_flag_eq_one]
  refine exists₂_congr fun r c => ?_
  rw [spriteCovers_draw hx hy]
  refine and_congr_right fun hc => ?_
  rw [State.draw_pixel_of_covers hc, Bool.not_eq_true']

end Sys2Proof.Proofs

/-! PROOFS. Control transfer (42_control_flow): RET, CALL and the pair of them (O29, O31, O32), the skips (O33, O34) and the jumps
(O30). A control transfer is one update of `pc`, `SP` and the call stack, so its frame is said once. -/

namespace Sys2Proof.Safety

/-! ## Rows of the opcode map by the form of their opcodes (R84) -/

theorem decodeOpcode_of_encode_eq {op : Word} {i : Instr} (h : encode i = op) : decodeOpcode op = .instr i :=
  h ▸ decodeOpcode_encode i

/-- A row of the form `fNNN`. -/
theorem encodedAs_encodeNNN (f : BitVec 4) (b : Addr12 → Instr) {m : Word} (hm : m = f ++ (0 : BitVec 12))
    (hb : ∀ nnn, encode (b nnn) = encodeNNN f nnn) : EncodedAs m 0xF000 fun op => b (opNNN op) :=
  encodedAs_family f hm fun _ hf =>
    decodeOpcode_of_encode_eq ((hb _).trans (encodeNNN_opNNN (congrArg BitVec.toNat hf)))

/-- A row of the form `fXKK`. -/
theorem encodedAs_encodeXKK (f : BitVec 4) (b : Reg → Byte → Instr) {m : Word} (hm : m = f ++ (0 : BitVec 12))
    (hb : ∀ x kk, encode (b x kk) = encodeXKK f x kk) : EncodedAs m 0xF000 fun op => b (opX op) (opKK op) :=
  encodedAs_family f hm fun _ hf =>
    decodeOpcode_of_encode_eq ((hb _ _).trans (encodeXKK_opX (congrArg BitVec.toNat hf) rfl))

/-- A row of the form `fXYn`, its last nibble `n` fixed. -/
theorem encodedAs_encodeXYN (f n : BitVec 4) (b : Reg → Reg → Instr) {m : Word} (hm : m = f ++ ((0 : BitVec 8) ++ n))
    (hb : ∀ x y, encode (b x y) = encodeXYN f x y n) : EncodedAs m 0xF00F fun op => b (opX op) (opY op) :=
  encodedAs_family_n f n hm fun _ hf hn =>
    decodeOpcode_of_encode_eq ((hb _ _).trans (encodeXYN_opX_opY (congrArg BitVec.toNat hf) hn))

end Sys2Proof.Safety

namespace Sys2Proof.Machine

open Sys2Proof.Safety

/-! ## The frame of a control transfer -/

theorem keepsAllButControl_update (s : State) (p : Word) (n : Fin 17) (entries : Vector Word 16) :
    KeepsAllButControl s { s with pc := p, sp := n, stack := entries } :=
  ⟨fun _ _ => rfl, rfl, fun _ => rfl, ⟨rfl, rfl⟩, ⟨fun _ _ => rfl, rfl⟩, fun _ => rfl, rfl, rfl, rfl, rfl, rfl⟩

/-- A transfer that sets `pc` only leaves the call stack too. -/
theorem State.setPc_frame (s : State) (p : Word) : KeepsStack s (s.setPc p) ∧ KeepsAllButControl s (s.setPc p) :=
  ⟨⟨rfl, fun _ => rfl⟩, keepsAllButControl_update s p s.sp s.stack⟩

/-! ## Jumps (R131, R137) -/

@[simp] theorem zextAddr_toNat (nnn : Addr12) : (zextAddr nnn).toNat = nnn.toNat :=
  BitVec.toNat_setWidth_of_le (by decide)

@[simp] theorem zextByte_toNat (v : Byte) : (zextByte v).toNat = v.toNat :=
  BitVec.toNat_setWidth_of_le (by decide)

/-- An address and a byte are too small for their sum to wrap. -/
theorem zextAddr_add_zextByte_toNat (nnn : Addr12) (v : Byte) :
    (zextAddr nnn + zextByte v).toNat = nnn.toNat + v.toNat := by
  rw [BitVec.toNat_add, zextAddr_toNat, zextByte_toNat]
  omega

/-! ## Skips (R133 to R136) -/

theorem State.skipIf_frame (s : State) (c : Bool) : KeepsStack s (s.skipIf c) ∧ KeepsAllButControl s (s.skipIf c) := by
  obtain ⟨p, hp⟩ := s.skipIf_rest c
  exact hp ▸ s.setPc_frame p

theorem State.skipIf_beq_pc (s : State) (v w : Byte) :
    (s.skipIf (v == w)).pc = if v.toNat = w.toNat then s.pc + 2 else s.pc := by
  simp only [State.skipIf_pc, beq_iff_eq, BitVec.toNat_inj]

theorem State.skipIf_bne_pc (s : State) (v w : Byte) :
    (s.skipIf (v != w)).pc = if v.toNat = w.toNat then s.pc else s.pc + 2 := by
  simp only [State.skipIf_pc, bne_iff_ne, ne_eq, ite_not, BitVec.toNat_inj]

/-! ## Call and return (R130, R132) -/

theorem exec_ret_of_sp {s : State} {j : Fin 16} (h : s.sp.val = j.val + 1) :
    exec .ret s = .next { s with pc := s.stack[j], sp := j.castSucc } := by
  have hpop : s.pop = some (s.stack[j], { s with sp := j.castSucc }) :=
    State.pop_eq_some.2 ⟨by omega, by simp only [h]; rfl, by simp only [h]; rfl⟩
  simp only [exec, execRet, hpop]
  rfl

theorem exec_ret_of_empty {s : State} (h : s.sp = 0) :
    exec .ret s = .next (s.enterFault .stackUnderflow (s.pc - 2) (some (encode .ret)) none) := by
  simp only [exec, execRet, State.pop_eq_none.2 (congrArg Fin.val h), raise_eq]

theorem exec_call_of_sp (nnn : Addr12) {s : State} {j : Fin 16} (h : s.sp.val = j.val) :
    exec (.call nnn) s = .next { s with pc := zextAddr nnn, sp := j.succ, stack := s.stack.set j s.pc } := by
  have hpush : s.push s.pc = some { s with sp := j.succ, stack := s.stack.set j s.pc } :=
    State.push_eq_some.2 ⟨by omega, by simp only [h]; rfl⟩
  simp only [exec, execCall, hpush]
  rfl

theorem exec_call_of_full (nnn : Addr12) {s : State} (h : s.sp = 16) :
    exec (.call nnn) s = .next (s.enterFault .stackOverflow (s.pc - 2) (some (encode (.call nnn))) none) := by
  simp only [exec, execCall, State.push_eq_none.2 (congrArg Fin.val h), raise_eq]

end Sys2Proof.Machine

namespace Sys2Proof.Proofs

open Sys2Proof.Machine Sys2Proof.Safety

/-- Settles O29: the pop answers the entry below `SP`, or nothing at `SP = 0`. -/
theorem retPopsReturnAddress : Obligations.RetPopsReturnAddress :=
  ⟨encodedAs_opcode rfl,
    fun s _ h => ⟨_, exec_ret_of_sp h, rfl, rfl, fun _ => rfl, keepsAllButControl_update s _ _ _⟩,
    fun s h => ⟨_, exec_ret_of_empty h, faultsWith_enterFault _ _ _ s⟩⟩

/-- Settles O31: the push writes the entry at `SP` and no other, or nothing at `SP = 16`. -/
theorem callPushesReturnAddress : Obligations.CallPushesReturnAddress := by
  refine ⟨encodedAs_encodeNNN 0x2 .call rfl fun _ => rfl, fun nnn s j h => ?_, fun nnn s h => ?_⟩
  · refine ⟨_, exec_call_of_sp nnn h, zextAddr_toNat nnn, rfl, ?_, fun k hk => ?_, keepsAllButControl_update s _ _ _⟩
    · exact Vector.getElem_set_self _
    · exact Vector.getElem_set_ne j.isLt k.isLt (Fin.val_ne_of_ne hk.symm)
  · exact ⟨_, exec_call_of_full nnn h, faultsWith_enterFault _ _ _ s⟩

/-- Settles O32: the return pops the entry the call wrote, and the two updates make one update of `pc`, `SP` and the stack. -/
theorem callThenReturnRestores : Obligations.CallThenReturnRestores := by
  intro nnn s h
  refine ⟨_, _, exec_call_of_sp (j := ⟨s.sp.val, h⟩) nnn rfl, exec_ret_of_sp (j := ⟨s.sp.val, h⟩) rfl, ?_, rfl,
    fun k hk => ?_, fun k hk => ?_, keepsAllButControl_update s _ _ _⟩
  · exact Vector.getElem_set_self _
  · exact Vector.getElem_set_ne h k.isLt hk.symm
  · obtain rfl : k = ⟨s.sp.val, h⟩ := Fin.ext hk
    exact Vector.getElem_set_self _

/-- Settles O33: both skip by the comparison of the register with the immediate. -/
theorem immediateSkips : Obligations.ImmediateSkips :=
  ⟨encodedAs_encodeXKK 0x3 .seImm rfl fun _ _ => rfl, encodedAs_encodeXKK 0x4 .sneImm rfl fun _ _ => rfl, fun _ _ s =>
    ⟨⟨_, rfl, s.skipIf_beq_pc _ _, s.skipIf_frame _⟩, ⟨_, rfl, s.skipIf_bne_pc _ _, s.skipIf_frame _⟩⟩⟩

/-- Settles O34: both skip by the comparison of the two registers. -/
theorem registerSkips : Obligations.RegisterSkips :=
  ⟨encodedAs_encodeXYN 0x5 0x0 .seReg rfl fun _ _ => rfl, encodedAs_encodeXYN 0x9 0x0 .sneReg rfl fun _ _ => rfl,
    fun _ _ s =>
    ⟨⟨_, rfl, s.skipIf_beq_pc _ _, s.skipIf_frame _⟩, ⟨_, rfl, s.skipIf_bne_pc _ _, s.skipIf_frame _⟩⟩⟩

/-- Settles O30: the targets are numbers below 2^16. -/
theorem jumpsSetPc : Obligations.JumpsSetPc :=
  ⟨encodedAs_encodeNNN 0x1 .jp rfl fun _ => rfl, encodedAs_encodeNNN 0xB .jpV0 rfl fun _ => rfl,
    fun nnn s => ⟨_, rfl, zextAddr_toNat nnn, s.setPc_frame _⟩,
    fun nnn s => ⟨_, rfl, zextAddr_add_zextByte_toNat nnn _, s.setPc_frame _⟩⟩

end Sys2Proof.Proofs

/-! PROOFS. Loads, arithmetic, logic, shifts and the random byte (43_alu): O35 to O42. Each of these instructions answers the state
with new registers, so its frame is said once, from the registers it names (`destRegs`); what is left is the order of the two
register writes and the value of a byte operation. -/

namespace Sys2Proof.Machine

open Sys2Proof.Safety Sys2Proof.Statements

/-! ## The frame of a register instruction -/

theorem keepsAllButRegs_update (s : State) (regs : Vector Byte 16) : KeepsAllButRegs s { s with x := regs } :=
  ⟨rfl, fun _ => rfl, ⟨rfl, fun _ => rfl⟩, ⟨rfl, rfl⟩, ⟨fun _ _ => rfl, rfl⟩, fun _ => rfl, rfl, rfl, rfl, rfl, rfl⟩

/-- An instruction that answers the state with new registers changes only the registers it names. -/
theorem exec_registers_frame (i : Instr) {s : State} {regs : Vector Byte 16} (h : exec i s = .next { s with x := regs }) :
    KeepsRegs (destRegs i) s { s with x := regs } ∧ ({ s with x := regs } : State).pc = s.pc ∧
      KeepsAllButRegs s { s with x := regs } :=
  ⟨exec_keepsRegs h, rfl, keepsAllButRegs_update s regs⟩

/-! ## The destination and the flag, in either order -/

theorem State.reg_setReg_self (s : State) (x : Reg) (v : Byte) : (s.setReg x v).reg x = v := by
  rw [State.reg_setReg, if_pos rfl]

theorem State.reg_setFlag_self (s : State) (f : Byte) : (s.setFlag f).reg regF = f :=
  s.reg_setReg_self regF f

theorem State.reg_setFlag_of_ne (s : State) (f : Byte) {x : Reg} (hx : x ≠ regF) : (s.setFlag f).reg x = s.reg x := by
  rw [State.reg_setFlag, if_neg hx]

/-- A flag written last does not reach another destination. -/
theorem State.reg_setReg_setFlag (s : State) (v f : Byte) {x : Reg} (hx : x ≠ regF) :
    ((s.setReg x v).setFlag f).reg x = v := by
  rw [State.reg_setFlag_of_ne _ f hx, State.reg_setReg_self]

/-- The order of the two shifts (R158, R160): the flag, and then the destination from what it holds after the flag. -/
def State.flagThenShift (f : Byte) (shift : Byte → Byte) (x : Reg) (s : State) : State :=
  (s.setFlag f).setReg x (shift ((s.setFlag f).reg x))

theorem exec_shr (x y : Reg) (s : State) :
    exec (.shr x y) s = .next (s.flagThenShift (shrFlag (s.reg x)) (· >>> 1) x) := rfl

theorem exec_shl (x y : Reg) (s : State) :
    exec (.shl x y) s = .next (s.flagThenShift (shlFlag s.params.shlFlagMode (s.reg x)) (· <<< 1) x) := rfl

section
variable (s : State) (f : Byte) (shift : Byte → Byte)

theorem State.flagThenShift_reg {x : Reg} (hx : x ≠ regF) : (s.flagThenShift f shift x).reg x = shift (s.reg x) := by
  rw [State.flagThenShift, State.reg_setReg_self, State.reg_setFlag_of_ne s f hx]

theorem State.flagThenShift_flag {x : Reg} (hx : x ≠ regF) : (s.flagThenShift f shift x).reg regF = f := by
  rw [State.flagThenShift, State.reg_setReg, if_neg hx.symm, State.reg_setFlag_self]

/-- Register 0xF as the destination ends at the shifted flag. -/
theorem State.flagThenShift_regF : (s.flagThenShift f shift regF).reg regF = shift f := by
  rw [State.flagThenShift, State.reg_setReg_self, State.reg_setFlag_self]

end

/-! ## Byte arithmetic and the flags as numbers (R156 to R160) -/

theorem flagByte_decide (p : Prop) [Decidable p] : flagByte (decide p) = if p then 1 else 0 := by
  simp only [flagByte, decide_eq_true_eq]

theorem byte_sub_toNat (a b : Byte) : (a - b).toNat = (a.toNat + 256 - b.toNat) % 256 := by
  rw [BitVec.toNat_sub]
  omega

theorem byte_shiftRight_one_toNat (v : Byte) : (v >>> 1).toNat = v.toNat / 2 := by
  rw [BitVec.toNat_ushiftRight, Nat.shiftRight_one]

theorem byte_shiftLeft_one_toNat (v : Byte) : (v <<< 1).toNat = 2 * v.toNat % 256 := by
  rw [BitVec.toNat_shiftLeft, Nat.shiftLeft_eq, Nat.mul_comm]

theorem shrFlag_toNat (v : Byte) : (shrFlag v).toNat = v.toNat % 2 :=
  Nat.and_one_is_mod v.toNat

theorem byte_highBit (v : Byte) : v.toNat / 2 ^ 7 % 2 = if v.toNat ≥ 128 then 1 else 0 := by
  split <;> omega

theorem shlFlag_raw_toNat (v : Byte) : (shlFlag .raw v).toNat = if v.toNat ≥ 128 then 0x80 else 0 := by
  have hbit : (shlFlag .raw v).toNat = (v.toNat.testBit 7).toNat * 2 ^ 7 := Nat.and_two_pow v.toNat 7
  rw [hbit, Nat.toNat_testBit, byte_highBit]
  split <;> rfl

theorem shlFlag_normalized_toNat (v : Byte) : (shlFlag .normalized v).toNat = if v.toNat ≥ 128 then 1 else 0 := by
  rw [← byte_highBit, ← Nat.shiftRight_eq_div_pow]
  exact Nat.and_one_is_mod _

/-- SUB and SUBN are one operation with the roles exchanged (R157, R159). -/
theorem State.subtract_values (s : State) (x : Reg) (a b : Byte) :
    (x ≠ regF → ((s.subtract x a b).reg x).toNat = (a.toNat + 256 - b.toNat) % 256) ∧
      (s.subtract x a b).reg regF = if a.toNat ≥ b.toNat then 1 else 0 := by
  refine ⟨fun hx => ?_, ?_⟩
  · rw [State.subtract, State.reg_setReg_setFlag _ _ _ hx, byte_sub_toNat]
  · rw [State.subtract, State.reg_setFlag_self]
    exact flagByte_decide _

end Sys2Proof.Machine

namespace Sys2Proof.Proofs

open Sys2Proof.Machine Sys2Proof.Safety

/-- Settles O35: one register write each. -/
theorem loadsCopyToRegister : Obligations.LoadsCopyToRegister :=
  ⟨encodedAs_encodeXKK 0x6 .ldImm rfl fun _ _ => rfl, encodedAs_encodeXYN 0x8 0x0 .ldReg rfl fun _ _ => rfl,
    fun x kk s => ⟨_, rfl, s.reg_setReg_self x _, exec_registers_frame (.ldImm x kk) rfl⟩,
    fun x y s => ⟨_, rfl, s.reg_setReg_self x _, exec_registers_frame (.ldReg x y) rfl⟩⟩

/-- Settles O36: one register write, of a sum of bytes. -/
theorem addImmediateWraps : Obligations.AddImmediateWraps := by
  refine ⟨encodedAs_encodeXKK 0x7 .addImm rfl fun _ _ => rfl, fun x kk s =>
    ⟨_, rfl, ?_, exec_registers_frame (.addImm x kk) rfl⟩⟩
  rw [State.reg_setReg_self, BitVec.toNat_add]

/-- Settles O37: one register write each, of a bitwise operation. -/
theorem logicCombinesBits : Obligations.LogicCombinesBits := by
  refine ⟨encodedAs_encodeXYN 0x8 0x1 .orReg rfl fun _ _ => rfl, encodedAs_encodeXYN 0x8 0x2 .andReg rfl fun _ _ => rfl,
    encodedAs_encodeXYN 0x8 0x3 .xorReg rfl fun _ _ => rfl, fun x y s =>
    ⟨⟨_, rfl, fun b _ => ?_, exec_registers_frame (.orReg x y) rfl⟩,
      ⟨_, rfl, fun b _ => ?_, exec_registers_frame (.andReg x y) rfl⟩,
      ⟨_, rfl, fun b _ => ?_, exec_registers_frame (.xorReg x y) rfl⟩⟩⟩
  · rw [State.reg_setReg_self, BitVec.getLsbD_or]
  · rw [State.reg_setReg_self, BitVec.getLsbD_and]
  · rw [State.reg_setReg_self, BitVec.getLsbD_xor]

/-- Settles O38: the carry is written after the sum. -/
theorem addRegistersSetsCarry : Obligations.AddRegistersSetsCarry := by
  refine ⟨encodedAs_encodeXYN 0x8 0x4 .addReg rfl fun _ _ => rfl, fun x y s =>
    ⟨_, rfl, fun hx => ?_, ?_, exec_registers_frame (.addReg x y) rfl⟩⟩
  · rw [State.reg_setReg_setFlag _ _ _ hx, BitVec.toNat_ofNat]
  · rw [State.reg_setFlag_self]
    exact flagByte_decide _

/-- Settles O39: the flag is written after the difference. -/
theorem subtractionsSetNoBorrow : Obligations.SubtractionsSetNoBorrow := by
  refine ⟨encodedAs_encodeXYN 0x8 0x5 .subReg rfl fun _ _ => rfl, encodedAs_encodeXYN 0x8 0x7 .subnReg rfl fun _ _ => rfl,
    fun x y s => ?_⟩
  obtain ⟨hsub, hsubFlag⟩ := s.subtract_values x (s.reg x) (s.reg y)
  obtain ⟨hsubn, hsubnFlag⟩ := s.subtract_values x (s.reg y) (s.reg x)
  exact ⟨⟨_, rfl, hsub, hsubFlag, exec_registers_frame (.subReg x y) rfl⟩,
    ⟨_, rfl, hsubn, hsubnFlag, exec_registers_frame (.subnReg x y) rfl⟩⟩

/-- Settles O40: the flag is written before the shift, and shifting bit 0 right leaves nothing. -/
theorem shiftRightFlagsLowBit : Obligations.ShiftRightFlagsLowBit := by
  refine ⟨encodedAs_encodeXYN 0x8 0x6 .shr rfl fun _ _ => rfl, fun x y s =>
    ⟨_, exec_shr x y s, fun hx => ⟨?_, ?_⟩, ?_, fun y' => exec_shr x y' s, exec_registers_frame (.shr x y) rfl⟩⟩
  · rw [State.flagThenShift_reg _ _ _ hx, byte_shiftRight_one_toNat]
  · rw [State.flagThenShift_flag _ _ _ hx, shrFlag_toNat]
  · rintro rfl
    rw [State.flagThenShift_regF, ← BitVec.toNat_inj, byte_shiftRight_one_toNat, shrFlag_toNat]
    exact Nat.div_eq_of_lt (Nat.mod_lt _ Nat.two_pos)

/-- Settles O41: the flag is written before the shift, and register 0xF as the destination ends at the flag doubled. -/
theorem shiftLeftFlagsHighBit : Obligations.ShiftLeftFlagsHighBit := by
  refine ⟨encodedAs_encodeXYN 0x8 0xE .shl rfl fun _ _ => rfl, fun x y s =>
    ⟨_, exec_shl x y s, fun hx => ?_, fun hx hm => ?_, fun hx hm => ?_, ?_, ?_, fun y' => exec_shl x y' s,
      exec_registers_frame (.shl x y) rfl⟩⟩
  · rw [State.flagThenShift_reg _ _ _ hx, byte_shiftLeft_one_toNat]
  · rw [State.flagThenShift_flag _ _ _ hx, hm, shlFlag_raw_toNat]
  · rw [State.flagThenShift_flag _ _ _ hx, hm, shlFlag_normalized_toNat]
  · rintro rfl hm
    rw [State.flagThenShift_regF, hm, ← BitVec.toNat_inj, byte_shiftLeft_one_toNat, shlFlag_raw_toNat]
    split <;> rfl
  · rintro rfl hm
    rw [State.flagThenShift_regF, hm, byte_shiftLeft_one_toNat, shlFlag_normalized_toNat]
    split <;> rfl

/-- Settles O42: one register write, of the masked byte. -/
theorem rndMasksTheStepsByte : Obligations.RndMasksTheStepsByte := by
  refine ⟨encodedAs_encodeXKK 0xC .rnd rfl fun _ _ => rfl, fun x kk s =>
    ⟨_, rfl, fun b _ => ?_, exec_registers_frame (.rnd x kk) rfl⟩⟩
  rw [State.reg_setReg_self, BitVec.getLsbD_and]

end Sys2Proof.Proofs

/-! PROOFS. Keys and timers (44_keys_timers): SKP and SKNP (O43), the timer transfers (O44) and LD VX, K (O45). Each handler answers
one update of the state, which its key index (`keyIndex_eq_some`) or the scan of the latch (`firstKey_eq_some`) selects. -/

namespace Sys2Proof.Safety

/-- A row of the form `fXkk`, its low byte `kk` fixed. -/
theorem encodedAs_encodeXKK_fixed (f : BitVec 4) (kk : Byte) (b : Reg → Instr) {m : Word}
    (hm : m = f ++ ((0 : BitVec 4) ++ kk)) (hb : ∀ x, encode (b x) = encodeXKK f x kk) :
    EncodedAs m 0xF0FF fun op => b (opX op) :=
  encodedAs_family_kk f kk hm fun _ hf hk =>
    decodeOpcode_of_encode_eq ((hb _).trans (encodeXKK_opX (congrArg BitVec.toNat hf) hk))

end Sys2Proof.Safety

namespace Sys2Proof.Machine

open Sys2Proof.Safety

section

variable {x : Reg} {s : State}

/-! ## Skips by a key (R180, R181) -/

theorem State.skipIf_not_pc (s : State) (c : Bool) : (s.skipIf (!c)).pc = if c then s.pc else s.pc + 2 := by
  cases c <;> rfl

theorem exec_skp_of_key {k : Fin 16} (h : (s.reg x).toNat = k.val) : exec (.skp x) s = .next (s.skipIf (s.key k)) := by
  simp only [exec, execSkp, keyIndex_eq_some.2 h]

theorem exec_sknp_of_key {k : Fin 16} (h : (s.reg x).toNat = k.val) :
    exec (.sknp x) s = .next (s.skipIf (!s.key k)) := by
  simp only [exec, execSknp, keyIndex_eq_some.2 h]

theorem exec_skp_of_gt (h : (s.reg x).toNat > 15) :
    exec (.skp x) s = .next (s.enterFault .keyIndexRange (s.pc - 2) (some (encode (.skp x)))
      (some (s.reg x).toNat)) := by
  simp only [exec, execSkp, keyIndex_eq_none.2 h, raise_eq]

theorem exec_sknp_of_gt (h : (s.reg x).toNat > 15) :
    exec (.sknp x) s = .next (s.enterFault .keyIndexRange (s.pc - 2) (some (encode (.sknp x)))
      (some (s.reg x).toNat)) := by
  simp only [exec, execSknp, keyIndex_eq_none.2 h, raise_eq]

/-! ## The key wait (R185) -/

/-- A key index fits in a register. -/
theorem keyByte_toNat (k : Fin 16) : (BitVec.ofNat 8 k.val).toNat = k.val :=
  Nat.mod_eq_of_lt (k.isLt.trans (by decide))

theorem exec_ldVxK_of_least {k : Fin 16} (hk : s.key k = true) (hlow : ∀ j < k, s.key j = false) :
    exec (.ldVxK x) s = .next (s.setReg x (BitVec.ofNat 8 k.val)) := by
  simp only [exec, execLdVxK, firstKey_eq_some.2 ⟨hk, hlow⟩]

theorem exec_ldVxK_of_none (h : ∀ k, s.key k = false) : exec (.ldVxK x) s = .next (s.setPc (s.pc - 2)) := by
  simp only [exec, execLdVxK, firstKey_eq_none.2 h]

end

/-! ## The frame of a write to a timer (R183, R184) -/

theorem timers_update_frame {s t : State} {d e : Byte} (h : t = { s with dt := d, st := e }) :
    KeepsRegs [] s t ∧ t.pc = s.pc ∧ t.index = s.index ∧ KeepsMem s t ∧ KeepsStack s t ∧ KeepsDisplay s t ∧
      KeepsHost s t := by
  subst h
  exact ⟨fun _ _ => rfl, rfl, rfl, fun _ => rfl, ⟨rfl, fun _ => rfl⟩, ⟨fun _ _ => rfl, rfl⟩, fun _ => rfl, rfl, rfl, rfl,
    rfl, rfl⟩

end Sys2Proof.Machine

namespace Sys2Proof.Proofs

open Sys2Proof.Machine Sys2Proof.Safety

/-- Settles O43: both skip by the key at the register's index, and above 15 no key has that index. -/
theorem keySkipsReadLatch : Obligations.KeySkipsReadLatch :=
  ⟨encodedAs_encodeXKK_fixed 0xE 0x9E .skp rfl fun _ => rfl, encodedAs_encodeXKK_fixed 0xE 0xA1 .sknp rfl fun _ => rfl,
    fun _ s _ h =>
      ⟨⟨_, exec_skp_of_key h, s.skipIf_pc _, s.skipIf_frame _⟩, ⟨_, exec_sknp_of_key h, s.skipIf_not_pc _, s.skipIf_frame _⟩⟩,
    fun _ s h =>
      ⟨⟨_, exec_skp_of_gt h, faultsWith_enterFault _ _ _ s⟩, ⟨_, exec_sknp_of_gt h, faultsWith_enterFault _ _ _ s⟩⟩⟩

/-- Settles O45: the scan answers the least pressed key, and with none pressed the handler sets `pc` only. -/
theorem keyWaitTakesLeastKey : Obligations.KeyWaitTakesLeastKey := by
  refine ⟨encodedAs_encodeXKK_fixed 0xF 0x0A .ldVxK rfl fun _ => rfl, fun x s k hk hlow => ?_, fun x s h => ?_⟩
  · have hexec := exec_ldVxK_of_least (x := x) hk hlow
    refine ⟨_, hexec, ?_, exec_registers_frame (.ldVxK x) hexec⟩
    rw [State.reg_setReg_self, keyByte_toNat]
  · obtain ⟨hstack, hregs, hrest⟩ := s.setPc_frame (s.pc - 2)
    obtain ⟨hindex, hmem, hupper⟩ := hrest
    exact ⟨_, exec_ldVxK_of_none h, rfl, hregs, hindex, hmem, hstack, hupper⟩

/-- Settles O44: one register write, or one timer write. -/
theorem timerTransfers : Obligations.TimerTransfers :=
  ⟨encodedAs_encodeXKK_fixed 0xF 0x07 .ldVxDt rfl fun _ => rfl, encodedAs_encodeXKK_fixed 0xF 0x15 .ldDtVx rfl fun _ => rfl,
    encodedAs_encodeXKK_fixed 0xF 0x18 .ldStVx rfl fun _ => rfl, fun x s =>
    ⟨⟨_, rfl, s.reg_setReg_self x _, exec_registers_frame (.ldVxDt x) rfl⟩,
      ⟨_, rfl, rfl, rfl, timers_update_frame rfl⟩,
      ⟨_, rfl, rfl, rfl, timers_update_frame rfl⟩⟩⟩

end Sys2Proof.Proofs

/-! PROOFS. The index register and the memory blocks (45_index_memory): O46 to O50. Each handler answers one update of `I`, of
memory or of the registers, whose frame is said once; a block is in memory or past it (`outOfRange_eq_none`, `outOfRange_of_gt`). -/

namespace Sys2Proof.Machine

open Sys2Proof.Safety

/-! ## The index register (R190 to R192) -/

theorem State.setIndex_frame (s : State) (a : Word) :
    KeepsRegs [] s (s.setIndex a) ∧ (s.setIndex a).pc = s.pc ∧ KeepsMem s (s.setIndex a) ∧ KeepsStack s (s.setIndex a) ∧
      KeepsTimers s (s.setIndex a) ∧ KeepsDisplay s (s.setIndex a) ∧ KeepsHost s (s.setIndex a) :=
  ⟨fun _ _ => rfl, rfl, fun _ => rfl, ⟨rfl, fun _ => rfl⟩, ⟨rfl, rfl⟩, ⟨fun _ _ => rfl, rfl⟩, fun _ => rfl, rfl, rfl, rfl,
    rfl, rfl⟩

section

variable {x : Reg} {s : State}

theorem exec_ldF_of_le (h : (s.reg x).toNat ≤ 15) :
    ∃ a, exec (.ldF x) s = .next (s.setIndex a) ∧ a.toNat = 0x050 + 5 * (s.reg x).toNat := by
  cases hg : glyphAddress (s.reg x) with
  | none => exact absurd (glyphAddress_eq_none.1 hg) (Nat.not_lt.2 h)
  | some a => exact ⟨a, by simp only [exec, execLdF, hg], (glyphAddress_eq_some.1 hg).2⟩

theorem exec_ldF_of_gt (h : (s.reg x).toNat > 15) :
    exec (.ldF x) s = .next (s.enterFault .glyphIndexRange (s.pc - 2) (some (encode (.ldF x)))
      (some (s.reg x).toNat)) := by
  simp only [exec, execLdF, glyphAddress_eq_none.2 h, raise_eq]

/-! ## Blocks inside memory and past it (R57) -/

theorem outOfRange_of_gt {a n : Nat} (hn : 1 ≤ n) (h : a + n > 0x1000) : outOfRange a n = some (max a 0x1000) :=
  outOfRange_eq_some.2 ⟨⟨hn, h⟩, rfl⟩

theorem exec_ldB_of_le (h : s.index.toNat + 3 ≤ 0x1000) :
    exec (.ldB x) s = .next (s.storeBytes s.index.toNat (bcdDigits (s.reg x))) := by
  simp only [exec, execLdB, outOfRange_eq_none.2 (.inr h)]

theorem exec_ldB_of_gt (h : s.index.toNat + 3 > 0x1000) :
    exec (.ldB x) s = .next (s.enterFault .memoryRange (s.pc - 2) (some (encode (.ldB x)))
      (some (max s.index.toNat 0x1000))) := by
  simp only [exec, execLdB, outOfRange_of_gt (by decide) h, raise_eq]

theorem exec_ldMemVx_of_gt (h : s.index.toNat + x.val + 1 > 0x1000) :
    exec (.ldMemVx x) s = .next (s.enterFault .memoryRange (s.pc - 2) (some (encode (.ldMemVx x)))
      (some (max s.index.toNat 0x1000))) := by
  simp only [exec, execLdMemVx, outOfRange_of_gt (n := x.val + 1) (Nat.le_add_left 1 _) h, raise_eq]

theorem exec_ldVxMem_of_le (h : s.index.toNat + x.val + 1 ≤ 0x1000) :
    exec (.ldVxMem x) s = .next (s.loadRegs s.index.toNat x) := by
  have hm : outOfRange s.index.toNat (x.val + 1) = none := outOfRange_eq_none.2 (.inr h)
  simp only [exec, execLdVxMem, hm]

theorem exec_ldVxMem_of_gt (h : s.index.toNat + x.val + 1 > 0x1000) :
    exec (.ldVxMem x) s = .next (s.enterFault .memoryRange (s.pc - 2) (some (encode (.ldVxMem x)))
      (some (max s.index.toNat 0x1000))) := by
  simp only [exec, execLdVxMem, outOfRange_of_gt (n := x.val + 1) (Nat.le_add_left 1 _) h, raise_eq]

end

/-! ## What a store and a load leave (R193 to R195) -/

/-- A store of `n` bytes leaves the memory outside them, and everything but memory. -/
theorem State.storeBytes_frame (s : State) (a : Nat) {vs : List Byte} {n : Nat} (hn : vs.length = n) :
    KeepsMemOutside a n s (s.storeBytes a vs) ∧ KeepsRegs [] s (s.storeBytes a vs) ∧
      (s.storeBytes a vs).index = s.index ∧ (s.storeBytes a vs).pc = s.pc ∧ KeepsStack s (s.storeBytes a vs) ∧
      KeepsTimers s (s.storeBytes a vs) ∧ KeepsDisplay s (s.storeBytes a vs) ∧ KeepsHost s (s.storeBytes a vs) := by
  refine ⟨fun b hb => ?_, fun _ _ => rfl, rfl, rfl, ⟨rfl, fun _ => rfl⟩, ⟨rfl, rfl⟩, ⟨fun _ _ => rfl, rfl⟩, fun _ => rfl, rfl,
    rfl, rfl, rfl, rfl⟩
  rw [State.byteAt_storeBytes, dif_neg (hn ▸ hb)]

theorem State.byteAt_storeBytes_add (s : State) (a : Nat) {vs : List Byte} {k : Nat} (h : k < vs.length) :
    (s.storeBytes a vs).byteAt (a + k) = vs[k] := by
  rw [State.byteAt_storeBytes, dif_pos ⟨Nat.le_add_right a k, Nat.add_lt_add_left h a⟩]
  simp only [Nat.add_sub_cancel_left]

/-- A number up to the value of a byte fits in a byte: a quotient or a remainder of it, as the digits are. -/
theorem byteOfNat_toNat_of_le {v : Byte} {n : Nat} (h : n ≤ v.toNat) : (BitVec.ofNat 8 n).toNat = n :=
  Nat.mod_eq_of_lt (h.trans_lt v.isLt)

theorem State.loadRegs_frame (s : State) (a : Nat) (x : Reg) :
    (s.loadRegs a x).pc = s.pc ∧ KeepsAllButRegs s (s.loadRegs a x) := by
  obtain ⟨regs, h⟩ := s.loadRegs_rest a x
  exact h ▸ ⟨rfl, keepsAllButRegs_update s regs⟩

end Sys2Proof.Machine

namespace Sys2Proof.Proofs

open Sys2Proof.Machine Sys2Proof.Safety

/-- Settles O47: the glyph address is below 2^16, and above 15 there is none. -/
theorem glyphAddressIsFiveTimesDigit : Obligations.GlyphAddressIsFiveTimesDigit := by
  refine ⟨encodedAs_encodeXKK_fixed 0xF 0x29 .ldF rfl fun _ => rfl, fun _ s h => ?_,
    fun _ s h => ⟨_, exec_ldF_of_gt h, faultsWith_enterFault _ _ _ s⟩⟩
  obtain ⟨a, hexec, ha⟩ := exec_ldF_of_le h
  exact ⟨_, hexec, ha, s.setIndex_frame a⟩

/-- Settles O48: inside memory one store, of three digits that each fit in a byte. -/
theorem bcdStoresThreeDigits : Obligations.BcdStoresThreeDigits := by
  refine ⟨encodedAs_encodeXKK_fixed 0xF 0x33 .ldB rfl fun _ => rfl, fun x s h => ?_,
    fun _ s h => ⟨_, exec_ldB_of_gt h, faultsWith_enterFault _ _ _ s⟩⟩
  have hdigit {k : Nat} (hk : k < 3) := congrArg BitVec.toNat
    (s.byteAt_storeBytes_add s.index.toNat (vs := bcdDigits (s.reg x)) hk)
  refine ⟨_, exec_ldB_of_le h, (hdigit (k := 0) (by decide)).trans ?_, (hdigit (k := 1) (by decide)).trans ?_,
    (hdigit (k := 2) (by decide)).trans ?_, s.storeBytes_frame _ rfl⟩
  · exact byteOfNat_toNat_of_le (Nat.div_le_self _ _)
  · exact byteOfNat_toNat_of_le ((Nat.mod_le _ _).trans (Nat.div_le_self _ _))
  · exact byteOfNat_toNat_of_le (Nat.mod_le _ _)

/-- Settles O49: inside memory one store, of the block of registers. -/
theorem registerDumpStoresBlock : Obligations.RegisterDumpStoresBlock :=
  ⟨encodedAs_encodeXKK_fixed 0xF 0x55 .ldMemVx rfl fun _ => rfl,
    fun x s h => ⟨_, exec_ldMemVx_of_le h, fun _ hr => s.byteAt_storeBytes_regBlock _ hr,
      s.storeBytes_frame _ (length_regBlock x s)⟩,
    fun _ s h => ⟨_, exec_ldMemVx_of_gt h, faultsWith_enterFault _ _ _ s⟩⟩

/-- Settles O50: inside memory the transfer writes the registers up to `X` and nothing else. -/
theorem registerLoadReadsBlock : Obligations.RegisterLoadReadsBlock := by
  refine ⟨encodedAs_encodeXKK_fixed 0xF 0x65 .ldVxMem rfl fun _ => rfl, fun x s h => ?_,
    fun _ s h => ⟨_, exec_ldVxMem_of_gt h, faultsWith_enterFault _ _ _ s⟩⟩
  refine ⟨_, exec_ldVxMem_of_le h, fun r hr => ?_, fun r hr => ?_, s.loadRegs_frame _ x⟩
  · rw [State.reg_loadRegs, if_pos hr]
  · rw [State.reg_loadRegs, if_neg (not_le_of_gt hr)]

/-- Settles O46: one write of `I` each, of a zero-extended address or of a 16-bit sum. -/
theorem indexLoadsAndAdds : Obligations.IndexLoadsAndAdds := by
  refine ⟨encodedAs_encodeNNN 0xA .ldI rfl fun _ => rfl, encodedAs_encodeXKK_fixed 0xF 0x1E .addI rfl fun _ => rfl,
    fun nnn s => ⟨_, rfl, zextAddr_toNat nnn, s.setIndex_frame _⟩, fun _ s => ⟨_, rfl, ?_, s.setIndex_frame _⟩⟩
  rw [State.setIndex_index, BitVec.toNat_add, zextByte_toNat]

end Sys2Proof.Proofs

/-! PROOFS. Faults and host transactions (60_exceptions): what each instruction raises (O18), the entry of a fault (O19, O23), the
halted CORE (O20) and the transactions Load, Snapshot, TakeDirty and ReadFault (O58, O59). What a handler raises is the table of
R211 (`exec_of_expectedFault_eq_some`, `exec_fault_of_expectedFault_eq_none`); O19 and O23 read the record of a step that
raises off one lemma, `step_raises`. -/

namespace Sys2Proof.Machine

open Sys2Proof.Safety Sys2Proof.Statements

/-! ## The table of R211 -/

theorem State.skipIf_fault (s : State) (c : Bool) : (s.skipIf c).fault = s.fault := by
  cases c <;> rfl

theorem State.loadRegs_fault (s : State) (a : Nat) (x : Reg) : (s.loadRegs a x).fault = s.fault := by
  obtain ⟨_, h⟩ := s.loadRegs_rest a x
  rw [h]

section

variable {i : Instr} {s t : State} {cause : FaultCause} {info : Option Nat}

/-- Where the table gives an instruction a fault, its handler enters that fault. -/
theorem exec_of_expectedFault_eq_some (h : expectedFault s i = some (cause, info)) :
    exec i s = .next (s.enterFault cause (s.pc - 2) (some (encode i)) info) := by
  cases i with
  | ret => obtain ⟨hsp, ⟨⟩⟩ := Option.ite_none_right_eq_some.1 h; exact exec_ret_of_empty hsp
  | call nnn => obtain ⟨hsp, ⟨⟩⟩ := Option.ite_none_right_eq_some.1 h; exact exec_call_of_full nnn hsp
  | drw => obtain ⟨⟨hn, hm⟩, ⟨⟩⟩ := Option.ite_none_right_eq_some.1 h; exact exec_drw_of_gt hn hm
  | skp => obtain ⟨hv, ⟨⟩⟩ := Option.ite_none_right_eq_some.1 h; exact exec_skp_of_gt hv
  | sknp => obtain ⟨hv, ⟨⟩⟩ := Option.ite_none_right_eq_some.1 h; exact exec_sknp_of_gt hv
  | ldF => obtain ⟨hv, ⟨⟩⟩ := Option.ite_none_right_eq_some.1 h; exact exec_ldF_of_gt hv
  | ldB => obtain ⟨hm, ⟨⟩⟩ := Option.ite_none_right_eq_some.1 h; exact exec_ldB_of_gt (by omega)
  | ldMemVx => obtain ⟨hm, ⟨⟩⟩ := Option.ite_none_right_eq_some.1 h; exact exec_ldMemVx_of_gt (by omega)
  | ldVxMem => obtain ⟨hm, ⟨⟩⟩ := Option.ite_none_right_eq_some.1 h; exact exec_ldVxMem_of_gt (by omega)
  | _ => cases h

/-- Where the table gives an instruction no fault, its handler leaves the fault record: the condition the table names fails, so
the handler takes its other branch. -/
theorem exec_fault_of_expectedFault_eq_none (he : expectedFault s i = none) (h : exec i s = .next t) :
    t.fault = s.fault := by
  cases i <;> simp only [expectedFault, ite_eq_right_iff, reduceCtorEq, imp_false] at he
  case ret =>
    have hsp : s.sp.val ≠ 0 := fun e => he (Fin.ext e)
    rw [exec_ret_of_sp (j := ⟨s.sp.val - 1, by omega⟩) (Nat.sub_one_add_one hsp).symm] at h
    cases h; rfl
  case call nnn =>
    have hsp : s.sp.val ≠ 16 := fun e => he (Fin.ext e)
    rw [exec_call_of_sp nnn (j := ⟨s.sp.val, by omega⟩) rfl] at h
    cases h; rfl
  case drw x y n =>
    have hm : n = 0 ∨ s.index.toNat + n.toNat ≤ 0x1000 :=
      or_iff_not_imp_left.2 fun hn => Nat.not_lt.1 fun hgt => he ⟨hn, hgt⟩
    rw [exec_drw_of_le hm] at h
    cases h; rfl
  case skp =>
    rw [exec_skp_of_key (k := ⟨_, Nat.lt_succ_of_le (Nat.not_lt.1 he)⟩) rfl] at h
    cases h; exact s.skipIf_fault _
  case sknp =>
    rw [exec_sknp_of_key (k := ⟨_, Nat.lt_succ_of_le (Nat.not_lt.1 he)⟩) rfl] at h
    cases h; exact s.skipIf_fault _
  case ldF =>
    obtain ⟨a, ha, -⟩ := exec_ldF_of_le (Nat.not_lt.1 he)
    rw [ha] at h
    cases h; rfl
  case ldB => rw [exec_ldB_of_le (by omega)] at h; cases h; rfl
  case ldMemVx => rw [exec_ldMemVx_of_le (by omega)] at h; cases h; rfl
  case ldVxMem => rw [exec_ldVxMem_of_le (by omega)] at h; cases h; exact s.loadRegs_fault _ _
  case seImm | sneImm | seReg | sneReg => cases h; exact s.skipIf_fault _
  case ldVxK => cases h; split <;> rfl
  all_goals cases h; rfl

/-- The faults of the table have the shape of their causes (R211's last column). -/
theorem recordShape_of_expectedFault (h : expectedFault s i = some (cause, info)) (a op : Word) :
    RecordShape ⟨cause, a, some op, info⟩ := by
  cases i with
  | ret | call => obtain ⟨-, ⟨⟩⟩ := Option.ite_none_right_eq_some.1 h; exact ⟨rfl, rfl⟩
  | skp x | sknp x | ldF x =>
    obtain ⟨hv, ⟨⟩⟩ := Option.ite_none_right_eq_some.1 h
    exact ⟨rfl, _, rfl, hv, (s.reg x).isLt⟩
  | drw | ldB | ldMemVx | ldVxMem =>
    obtain ⟨-, ⟨⟩⟩ := Option.ite_none_right_eq_some.1 h
    exact ⟨_, rfl, Nat.le_max_right ..⟩
  | _ => cases h

end

/-! ## The step that raises (R212, R213) -/

/-- The records that a running step may enter in `s`: that of a fetch past memory, or that of the instruction at `pc` by the table
of R211. -/
inductive StepRecord (s : State) : FaultRecord → Prop where
  | fetch (hpc : 0x1000 < s.pc.toNat + 2) :
    StepRecord s ⟨.memoryRange, s.pc, none, some (max s.pc.toNat 0x1000)⟩
  | instr (hpc : s.pc.toNat + 2 ≤ 0x1000) {i : Instr} (hi : decodeOpcode s.opcodeAtPc = .instr i) {cause : FaultCause}
    {info : Option Nat} (he : expectedFault s i = some (cause, info)) :
    StepRecord s ⟨cause, s.pc, some s.opcodeAtPc, info⟩

theorem StepRecord.pc {s : State} {r : FaultRecord} (h : StepRecord s r) : r.pc = s.pc := by cases h <;> rfl

theorem StepRecord.shape {s : State} {r : FaultRecord} (h : StepRecord s r) : RecordShape r := by
  cases h with
  | fetch => exact ⟨_, rfl, Nat.le_max_right ..⟩
  | instr _ _ he => exact recordShape_of_expectedFault he _ _

/-- A step of a running CORE that raises latches its inputs, enters the record of what it fetched, and changes nothing else. -/
theorem step_raises {s t : State} (hs : Running s) (h : step s = .next t) {r : FaultRecord} (hr : t.fault = some r) :
    StepRecord s r ∧ t = { s.latch with fault := some r } := by
  obtain ⟨hf, -⟩ | ⟨-, a, ha, rfl⟩ | ⟨-, hm, ⟨i, u, hi, hu, rfl⟩ | ⟨_, -, rfl⟩⟩ := step_cases h
  · simp [hs] at hf
  · obtain ⟨⟨-, hpc⟩, rfl⟩ := outOfRange_eq_some.1 ha
    cases hr
    exact ⟨.fetch hpc, rfl⟩
  · cases he : expectedFault (s.latch.setPc (s.pc + 2)) i with
    | none =>
      have hu : u.fault = none := (exec_fault_of_expectedFault_eq_none he hu).trans hs
      rw [State.finish_running hu] at hr
      cases hu.symm.trans hr
    | some p =>
      have hpc : s.pc.toNat + 2 ≤ 0x1000 := (outOfRange_eq_none.1 hm).resolve_left (by decide)
      rw [exec_of_expectedFault_eq_some he] at hu
      cases hu
      rw [State.finish_faulted rfl] at hr ⊢
      cases hr
      rw [State.setPc_pc, BitVec.add_sub_cancel, encode_eq_of_decodeOpcode hi]
      exact ⟨.instr hpc hi he, rfl⟩
  · cases hs.symm.trans hr

end Sys2Proof.Machine

namespace Sys2Proof.Proofs

open Sys2Proof.Machine Sys2Proof.Safety Sys2Proof.Statements

/-- Settles O23: a halted step keeps the record, and a running one that raises enters that of what it fetched at `pc`. -/
theorem stepKeepsFaultConsistent : Obligations.StepKeepsFaultConsistent := by
  intro s t hs h r hr
  cases hf : s.fault with
  | some f =>
    rw [step_of_halted (by simp [hf])] at h
    cases h
    exact hs r hr
  | none =>
    obtain ⟨hrec, rfl⟩ := step_raises hf h hr
    exact ⟨hrec.pc, hrec.shape⟩

/-- Settles O18: a handler raises by the table, a fetch past memory faults, and an unrecognised opcode does nothing. -/
theorem faultsAreTheTables : Obligations.FaultsAreTheTables := by
  refine ⟨fun i s hs => ?_, fun s hs hpc => ?_, fun op s hs hop => ?_, rfl, rfl, rfl, rfl, rfl, rfl⟩
  · cases he : expectedFault s i with
    | some p => exact ⟨_, exec_of_expectedFault_eq_some he, rfl⟩
    | none =>
      obtain ⟨t, ht⟩ := exec_answers i s
      exact ⟨t, ht, by rw [exec_fault_of_expectedFault_eq_none he ht, hs]; rfl⟩
  · exact ⟨_, _, step_of_fetch_fault hs (fetch_outOfRange hpc), rfl, rfl, rfl⟩
  · obtain ⟨_, hw⟩ := (unrecognizedOpcodesAreTheTables op).2 hop
    exact ⟨s, by rw [execOpcode, hw]; rfl, hs⟩

/-- Settles O19: such a step is a latch and the entry of a record, and the record halts the CORE. -/
theorem faultEntryIsPrecise : Obligations.FaultEntryIsPrecise := by
  intro s t hs h ht
  obtain ⟨r, hr⟩ := Option.ne_none_iff_exists'.1 ht
  obtain ⟨hrec, rfl⟩ := step_raises hs h hr
  refine ⟨⟨r, rfl, hrec.pc, ?_, ?_⟩, rfl, fun _ _ => rfl, rfl, fun _ => rfl, ⟨rfl, fun _ => rfl⟩, ⟨rfl, rfl⟩,
    ⟨fun _ _ => rfl, rfl⟩, fun _ => rfl, step_of_halted rfl⟩
  · intro hpc
    cases hrec with
    | fetch hpast => omega
    | instr _ hi he => exact ⟨rfl, _, hi, he⟩
  · intro hpc
    cases hrec with
    | fetch => exact ⟨rfl, rfl, rfl⟩
    | instr hin => omega

/-- Settles O20: a Step transaction is a halted step, and of the others only Reset writes the record. -/
theorem faultStaysUntilReset : Obligations.FaultStaysUntilReset := by
  intro s hf
  obtain ⟨hstep, hstepWith⟩ := haltedStepChangesNothing s hf
  refine ⟨hstep, fun tr htr => ?_, _, rfl, rfl⟩
  cases tr with
  | reset => exact absurd rfl htr
  | step keys rnd => exact ⟨s, .done, by rw [State.serve, hstepWith], rfl⟩
  | load | snapshot | takeDirty | readFault => exact ⟨_, _, rfl, rfl⟩

/-- Settles O58: Load is one store at 0x200 of the bytes up to the cap. -/
theorem loadCopiesTruncated : Obligations.LoadCopiesTruncated := by
  intro bytes s
  have hlen : (bytes.take loadCap).length = min bytes.length 3584 := by rw [List.length_take, Nat.min_comm]
  obtain ⟨hmem, hregs, hindex, hpc, hrest⟩ := s.storeBytes_frame 0x200 hlen
  refine ⟨_, rfl, fun i hi hcap => ?_, hmem, hregs, hpc, hindex, hrest⟩
  have hcopied : i < (bytes.take loadCap).length := hlen ▸ lt_min hi hcap
  exact (s.byteAt_storeBytes_add 0x200 hcopied).trans List.getElem_take

/-- Settles O59: each answer is a field of the state, and TakeDirty clears the one it answered. -/
theorem hostReadsReturnState : Obligations.HostReadsReturnState :=
  fun _ => ⟨⟨_, rfl, fun _ _ => rfl⟩, rfl, _, rfl, rfl, rfl⟩

end Sys2Proof.Proofs

/-! PROOFS. Reset and the runs from it (70_reset_and_hazards): the values Reset installs (O1, O24, O60), the canonical form of
memory that every step keeps (O21), and runs of several steps (O16, O17), which `run_of_step` takes apart at their first step. -/

namespace Sys2Proof.Machine

open Sys2Proof.Safety

/-! ## The list of cells -/

@[simp] theorem State.skipIf_mem (s : State) (c : Bool) : (s.skipIf c).mem = s.mem := by
  cases c <;> rfl

@[simp] theorem State.loadRegs_mem (s : State) (a : Nat) (x : Reg) : (s.loadRegs a x).mem = s.mem := by
  obtain ⟨_, h⟩ := s.loadRegs_rest a x
  rw [h]

/-- A handler leaves the list of cells as it was, or stores bytes inside the memory. -/
theorem exec_mem {i : Instr} {s t : State} (h : exec i s = .next t) :
    t.mem = s.mem ∨ ∃ a vs, a + vs.length ≤ memSize ∧ t.mem = s.mem.writeList s.params.glyphTable a vs := by
  obtain ⟨_, _, rfl⟩ | ha := exec_cases h
  · exact .inl rfl
  cases i with
  | ldB x =>
    obtain ⟨hm, rfl⟩ := ha
    exact .inr ⟨s.index.toNat, bcdDigits (s.reg x), (outOfRange_eq_none.1 hm).resolve_left (by decide), rfl⟩
  | ldMemVx x =>
    obtain ⟨hm, rfl⟩ := ha
    refine .inr ⟨s.index.toNat, s.regBlock x, ?_, rfl⟩
    rw [length_regBlock]
    exact (outOfRange_eq_none.1 hm).resolve_left (Nat.succ_ne_zero _)
  | ret | call => obtain ⟨_, rfl⟩ := ha; exact .inl rfl
  | seImm | sneImm | seReg | sneReg => cases ha; exact .inl (s.skipIf_mem _)
  | skp | sknp => obtain ⟨_, -, rfl⟩ := ha; exact .inl (s.skipIf_mem _)
  | ldF => obtain ⟨_, -, rfl⟩ := ha; exact .inl rfl
  | drw => obtain ⟨-, rfl⟩ := ha; exact .inl rfl
  | ldVxMem x => obtain ⟨-, rfl⟩ := ha; exact .inl (s.loadRegs_mem _ x)
  | ldVxK => cases ha; split <;> exact .inl rfl
  | _ => cases ha; exact .inl rfl

theorem exec_keeps_memoryCanonical {i : Instr} {s t : State} (hs : MemoryCanonical s) (h : exec i s = .next t) :
    MemoryCanonical t := by
  rw [MemoryCanonical, exec_params h]
  obtain hm | ⟨a, vs, hin, hm⟩ := exec_mem h <;> rw [hm]
  · exact hs
  · exact Memory.wf_writeList vs hs hin

/-! ## The reset contents of memory (R33) -/

theorem Memory.unlisted_of_outside (g : GlyphTable) {a : Nat} (h : ¬ (0x050 ≤ a ∧ a < 0x0A0)) :
    Memory.unlisted g a = 0 := dif_neg h

theorem Memory.unlisted_glyph (g : GlyphTable) (a : Fin 80) : Memory.unlisted g (0x050 + a.val) = g[a] := by
  have h : glyphBase ≤ 0x050 + a.val ∧ 0x050 + a.val < glyphBase + 80 := ⟨Nat.le_add_right .., Nat.add_lt_add_left a.isLt 0x050⟩
  simp [Memory.unlisted, h]

/-! ## Runs of several steps -/

theorem run_of_step {s u : State} (h : step s = .next u) (k : Nat) :
    Host.Core.run Sys2Proof.core (k + 1) s = Host.Core.run Sys2Proof.core k u := by
  have h : Sys2Proof.core.step s = .next u := h
  simp only [Host.Core.run, h]

theorem run_append {k : Nat} {s t : State} (h : Host.Core.run Sys2Proof.core k s = .next t) (m : Nat) :
    Host.Core.run Sys2Proof.core (k + m) s = Host.Core.run Sys2Proof.core m t := by
  induction k generalizing s with
  | zero => cases h; rw [Nat.zero_add]
  | succ k ih =>
    obtain ⟨u, hu⟩ := step_answers s
    rw [run_of_step hu] at h
    rw [Nat.succ_add, run_of_step hu, ih h]

/-- A step does not clear a fault record (R214), so a CORE that runs after the step ran before it. -/
theorem running_of_step {s t : State} (h : step s = .next t) (ht : Running t) : Running s := by
  by_contra hf
  rw [step_of_halted (Option.isSome_iff_ne_none.2 hf)] at h
  cases h
  exact hf ht

theorem running_of_run {k : Nat} {s t : State} (h : Host.Core.run Sys2Proof.core k s = .next t) (ht : Running t) :
    Running s := by
  induction k generalizing s with
  | zero => cases h; exact ht
  | succ k ih =>
    obtain ⟨u, hu⟩ := step_answers s
    rw [run_of_step hu] at h
    exact running_of_step hu (ih h)

/-! ## A timer over a run (R249) -/

/-- No step of the run of `k` steps from `s` fetches an instruction of the form `write`. -/
def NeverFetched (write : Reg → Instr) (k : Nat) (s : State) : Prop :=
  ∀ j < k, ∀ u : State, Host.Core.run Sys2Proof.core j s = .next u → ∀ x, decodeOpcode u.opcodeAtPc ≠ .instr (write x)

/-- A timer that loses one, and stops at 0, in each step that runs on and does not fetch the timer's writer loses `k` in a run
of `k` such steps. -/
theorem timer_of_run {timer : State → Byte} {write : Reg → Instr}
    (htick : ∀ s t, Running s → step s = .next t → Running t → (∀ x, decodeOpcode s.opcodeAtPc ≠ .instr (write x)) →
      (timer t).toNat = (timer s).toNat - 1)
    {k : Nat} {s t : State} (h : Host.Core.run Sys2Proof.core k s = .next t) (ht : Running t) (hw : NeverFetched write k s) :
    (timer t).toNat = (timer s).toNat - k := by
  induction k generalizing s with
  | zero => cases h; rfl
  | succ k ih =>
    obtain ⟨u, hu⟩ := step_answers s
    rw [run_of_step hu] at h
    have hrest : NeverFetched write k u := fun j hj v hv => hw (j + 1) (Nat.succ_lt_succ hj) v ((run_of_step hu j).trans hv)
    have hrun : Running u := running_of_run h ht
    have hfirst := htick s u (running_of_step hu hrun) hu hrun (hw 0 k.succ_pos s rfl)
    rw [ih h hrest, hfirst]
    omega

/-! ## A run over zero bytes (R244) -/

/-- Two zero bytes are an opcode that selects no row (R90), so a step passes over them (R106). -/
theorem decodeOpcode_of_zero_bytes {s : State} (hhi : s.byteAt s.pc.toNat = 0) (hlo : s.byteAt (s.pc.toNat + 1) = 0) :
    decodeOpcode s.opcodeAtPc = .unrecognized .family0 := by
  rw [State.opcodeAtPc, hhi, hlo]
  rfl

/-- Steps over zero bytes of memory advance `pc` by 2 each and leave registers and memory. -/
theorem run_over_zero_bytes {k : Nat} {s : State} (hs : Running s) (hpc : s.pc.toNat + 2 * k ≤ 0x1000)
    (hz : ∀ a, s.pc.toNat ≤ a → s.byteAt a = 0) :
    ∃ t : State, Host.Core.run Sys2Proof.core k s = .next t ∧ Running t ∧ t.pc.toNat = s.pc.toNat + 2 * k ∧
      KeepsRegs [] s t ∧ KeepsMem s t := by
  induction k generalizing s with
  | zero => exact ⟨s, rfl, hs, rfl, fun _ _ => rfl, fun _ => rfl⟩
  | succ k ih =>
    obtain ⟨u, hu, hupc, -, -, huregs, -, humem, -, -, hurun⟩ := Proofs.unrecognizedOpcodeOnlyAdvances.2 s .family0 hs
      (by omega) (decodeOpcode_of_zero_bytes (hz _ le_rfl) (hz _ (Nat.le_succ _)))
    have hupc : u.pc.toNat = s.pc.toNat + 2 := by rw [hupc, BitVec.toNat_add]; exact Nat.mod_eq_of_lt (by simp; omega)
    obtain ⟨t, ht, htrun, htpc, htregs, htmem⟩ := ih hurun (by omega) fun a ha => (humem a).trans (hz a (by omega))
    exact ⟨t, (run_of_step hu k).trans ht, htrun, by omega, fun r hr => (htregs r hr).trans (huregs r hr),
      fun a => (htmem a).trans (humem a)⟩

end Sys2Proof.Machine

namespace Sys2Proof.Proofs

open Sys2Proof.Machine Sys2Proof.Safety

/-- Settles O21: of the parts of a step only a handler writes memory, by stores inside it, and such stores keep the form. -/
theorem stepKeepsMemoryCanonical : Obligations.StepKeepsMemoryCanonical := by
  intro s t hs h
  obtain ⟨-, rfl⟩ | ⟨-, _, -, rfl⟩ | ⟨-, -, ⟨i, u, -, hu, rfl⟩ | ⟨_, -, rfl⟩⟩ := step_cases h
  · exact hs
  · exact hs
  · obtain ⟨-, e⟩ | ⟨-, e⟩ := s.latch.finish_cases u <;> rw [e]
    · exact (exec_keeps_memoryCanonical (by exact hs) hu :)
    · exact hs
  · exact hs

/-- Settles O16: the one law of a timer over a run, for DT and FX15 and for ST and FX18, from the tick of one step (O13). -/
theorem timersCountSteps : Obligations.TimersCountSteps := by
  intro k s t h ht
  refine ⟨timer_of_run (fun a b ha hb => ?_) h ht, timer_of_run (fun a b ha hb => ?_) h ht⟩
  · obtain ⟨-, hdt, -⟩ := timersCountDownEachStep a b ha hb
    exact hdt
  · obtain ⟨-, -, hst, -⟩ := timersCountDownEachStep a b ha hb
    exact hst

/-- Settles O1: each element is read off the reset state, a byte of memory off the contents an unlisted address reads as. -/
theorem resetInstallsSpecState : Obligations.ResetInstallsSpecState := by
  refine ⟨fun p => ⟨fun r => ?_, rfl, rfl, rfl, fun j => ?_, rfl, rfl, fun k => ?_, fun r c => ?_, rfl,
    fun a _ ha => Memory.unlisted_of_outside p.glyphTable ha, Memory.unlisted_glyph p.glyphTable, rfl, rfl⟩, rfl⟩
  · simp [State.reg]
  · simp
  · simp [State.key]
  · simp [State.pixel]

/-- Settles O17: from 0x200 up the reset memory is zero, so 1792 steps pass over it and the next fetches at 0x1000. -/
theorem stepsWithoutLoadReachMemoryEnd : Obligations.StepsWithoutLoadReachMemoryEnd := by
  intro p
  have hzero : ∀ a, 0x200 ≤ a → (State.resetWith p).byteAt a = 0 :=
    fun a ha => Memory.unlisted_of_outside p.glyphTable (by omega)
  have hruns := fun k (hk : k ≤ 1792) => run_over_zero_bytes (k := k) (s := State.resetWith p) rfl
    (show 0x200 + 2 * k ≤ 0x1000 by omega) hzero
  obtain ⟨t, ht, htrun, htpc, -⟩ := hruns 1792 le_rfl
  have htpc : t.pc = 0x1000 := BitVec.eq_of_toNat_eq htpc
  have hfault := step_of_fetch_fault htrun (fetch_outOfRange (by rw [htpc]; decide))
  have hlast := (run_append ht 1).trans (run_of_step hfault 0)
  exact ⟨hruns, ⟨t, ht, htrun⟩, ⟨_, hlast, nofun⟩, _, hlast, by rw [htpc]; rfl⟩

/-- Settles O24: the reset memory lists no cell, `pc` and the stack hold the values of R240, and no fault is recorded. -/
theorem resetMeetsInvariants : Obligations.ResetMeetsInvariants :=
  fun _ => ⟨Memory.wf_nil, ⟨by simp, by simp⟩, nofun⟩

/-- Settles O60: on a CORE in use Reset answers the reset state but for the driver's inputs, and before the first Reset it is
the one transaction that does not answer a refusal. -/
theorem resetStartsAnew : Obligations.ResetStartsAnew := by
  refine ⟨fun s => ⟨s.resetAgain, rfl, rfl⟩, fun p => rfl, fun tr p htr => ?_⟩
  cases tr with
  | reset => exact absurd rfl htr
  | load | step | snapshot | takeDirty | readFault => rfl

end Sys2Proof.Proofs
